-- ==== Sys2Proof/Word.lean ====
section
/-! DEFINITION. The values the engine handles: bytes, blocks, key-schedule words, round keys (R9, R11, R26). -/

namespace Sys2Proof

/-- A byte (R9), an element of GF(2^8) (R110). -/
abbrev Byte := BitVec 8

/-- A block: a byte string of length 16, first byte at index 0 (R9). Byte `i` is row `i % 4`, column `i / 4` of the
state matrix (R11). -/
abbrev Block := Vector Byte 16

/-- A word of the key schedule: a 4-byte string, never an integer (R11). -/
abbrev KeyWord := Vector Byte 4

/-- The ExpandedKey `RK[0..10]`: 11 round keys of 16 bytes (R26). -/
abbrev RoundKeys := Vector Block 11

end Sys2Proof
end

