-- ==== Sys2Proof/Syntax.lean ====
section
/-! DEFINITION. The twelve commands (R92), the raw fields of a command byte (R91), and the host's primitive events:
byte reads, byte writes and the reset (R60, R97, R260). -/

namespace Sys2Proof

/-- The commands of R92, one constructor per row of spec/opcode_table.json. No command has an operand field (R93). -/
inductive Instr where
  | loadKey
  | encBlock
  | decBlock
  | ecbEnc
  | ecbDec
  | flush
  | cbcEnc
  | cbcDec
  | cfbEnc
  | cfbDec
  | ctrEnc
  | ctrDec
deriving DecidableEq, Repr

/-- The document's Mode, "one of {ECB, CBC, CFB, CTR}" (R41); a field of the command byte, stored nowhere. -/
inductive Mode where
  | ecb
  | cbc
  | cfb
  | ctr
deriving DecidableEq, Repr

/-- The fields of format CMD8, before any legality check (R91). -/
structure CmdFields where
  zero : BitVec 2
  mode : BitVec 2
  op : BitVec 4
deriving DecidableEq, Repr

/-- The eight registers of the register map (R62). -/
inductive HostReg where
  | cmd
  | status
  | result
  | faultCause
  | keyIn
  | ivIn
  | din
  | dout
deriving DecidableEq, Repr

/-- One event of the engine's outside: a host transaction at one of the 8 offsets (3 address bits, R60), or the reset
(R260). A wider access or another offset cannot be written (R61, U10; log 11). -/
inductive Transaction where
  | reset
  | read (off : BitVec 3)
  | write (off : BitVec 3) (v : Byte)
deriving DecidableEq, Repr

end Sys2Proof
end

