-- ==== Sys2Proof/WellFormed.lean ====
section
/-! DEFINITION. When the fields of a command byte are legal (R91). The twelve commands have no operand, so every
`Instr` is well-formed; what can be ill-formed is the fields. -/

namespace Sys2Proof

/-- `OP` in {1, 2, 3, 6}: the operations without a mode (R91). -/
def CmdFields.opPlain (f : CmdFields) : Bool :=
  f.op == 1 || f.op == 2 || f.op == 3 || f.op == 6

/-- `OP` in {4, 5}: MODE_ENC and MODE_DEC (R91). -/
def CmdFields.opModal (f : CmdFields) : Bool :=
  f.op == 4 || f.op == 5

/-- "The command is legal exactly when `ZERO = 0` and (`OP` in {1, 2, 3, 6} and `MODE = 0`, or `OP` in {4, 5})" (R91). -/
def CmdFields.wellFormed (f : CmdFields) : Bool :=
  f.zero == 0 && ((f.opPlain && f.mode == 0) || f.opModal)

/-- The mode code of R91. -/
def Mode.code : Mode → BitVec 2
  | .ecb => 0
  | .cbc => 1
  | .cfb => 2
  | .ctr => 3

/-- The fields each command stands for (R91: OP and MODE; ZERO is 00). -/
def Instr.fields : Instr → CmdFields
  | .loadKey => ⟨0, 0, 1⟩
  | .encBlock => ⟨0, 0, 2⟩
  | .decBlock => ⟨0, 0, 3⟩
  | .ecbEnc => ⟨0, Mode.ecb.code, 4⟩
  | .ecbDec => ⟨0, Mode.ecb.code, 5⟩
  | .flush => ⟨0, 0, 6⟩
  | .cbcEnc => ⟨0, Mode.cbc.code, 4⟩
  | .cbcDec => ⟨0, Mode.cbc.code, 5⟩
  | .cfbEnc => ⟨0, Mode.cfb.code, 4⟩
  | .cfbDec => ⟨0, Mode.cfb.code, 5⟩
  | .ctrEnc => ⟨0, Mode.ctr.code, 4⟩
  | .ctrDec => ⟨0, Mode.ctr.code, 5⟩

/-- A command is well-formed when its fields are legal (R91). -/
def Instr.wellFormed (i : Instr) : Bool :=
  i.fields.wellFormed

end Sys2Proof
end

