-- ==== Sys2Proof/Decode.lean ====
section
/-! DEFINITION. The command decoder and encoder (R91, R92, R95) and the register map (R62). -/

namespace Sys2Proof

/-- Why a byte is no command: it is one of the 244 illegal bytes (R95). -/
inductive DecodeError where
  | illegalCommand
deriving DecidableEq, Repr

/-- `ZERO = v[7:6]`, `MODE = v[5:4]`, `OP = v[3:0]` (R91). -/
def fieldsOf (v : Byte) : CmdFields :=
  ⟨v.extractLsb' 6 2, v.extractLsb' 4 2, v.extractLsb' 0 4⟩

/-- The mode a MODE field codes (R91). -/
def modeOf (m : BitVec 2) : Mode :=
  match m.toNat with
  | 0 => .ecb
  | 1 => .cbc
  | 2 => .cfb
  | _ => .ctr

/-- OP 0x4, MODE_ENC, with its mode (R91). -/
def encCommand : Mode → Instr
  | .ecb => .ecbEnc
  | .cbc => .cbcEnc
  | .cfb => .cfbEnc
  | .ctr => .ctrEnc

/-- OP 0x5, MODE_DEC, with its mode (R91). -/
def decCommand : Mode → Instr
  | .ecb => .ecbDec
  | .cbc => .cbcDec
  | .cfb => .cfbDec
  | .ctr => .ctrDec

/-- The command that legal fields name (R91); an operation number that names none is rejected. -/
def commandOf (f : CmdFields) : Except DecodeError Instr :=
  match f.op.toNat with
  | 1 => .ok .loadKey
  | 2 => .ok .encBlock
  | 3 => .ok .decBlock
  | 4 => .ok (encCommand (modeOf f.mode))
  | 5 => .ok (decCommand (modeOf f.mode))
  | 6 => .ok .flush
  | _ => .error .illegalCommand

/-- Decode a command byte: by its fields where they are legal (R91), `illegalCommand` for the other 244 bytes (R95). -/
def decode (v : Byte) : Except DecodeError Instr :=
  if (fieldsOf v).wellFormed then commandOf (fieldsOf v) else .error .illegalCommand

/-- The register at an offset (R62); all 8 offsets are assigned. -/
def regOf (off : BitVec 3) : HostReg :=
  match off.toNat with
  | 0 => .cmd
  | 1 => .status
  | 2 => .result
  | 3 => .faultCause
  | 4 => .keyIn
  | 5 => .ivIn
  | 6 => .din
  | _ => .dout

/-- The command byte of each command, from the table of R92. -/
def encode : Instr → Byte
  | .loadKey => 0x01
  | .encBlock => 0x02
  | .decBlock => 0x03
  | .ecbEnc => 0x04
  | .ecbDec => 0x05
  | .flush => 0x06
  | .cbcEnc => 0x14
  | .cbcDec => 0x15
  | .cfbEnc => 0x24
  | .cfbDec => 0x25
  | .ctrEnc => 0x34
  | .ctrDec => 0x35

/-- The command byte built from its fields: ZERO, MODE, OP from the top bit down (R91). -/
def byteOfFields (f : CmdFields) : Byte :=
  f.zero ++ f.mode ++ f.op

/-- The offset of a register (R62). -/
def offsetOf : HostReg → BitVec 3
  | .cmd => 0
  | .status => 1
  | .result => 2
  | .faultCause => 3
  | .keyIn => 4
  | .ivIn => 5
  | .din => 6
  | .dout => 7

/-- The command the decoder reads from a row's bits. Every command is one byte (R91): a row of more than 8 bits, or bits
beyond the byte, are no command. -/
def decodeTableWord (nbits w : Nat) : Option Instr :=
  if nbits ≤ 8 ∧ w < 256 then
    match decode (BitVec.ofNat 8 w) with
    | .ok i => some i
    | .error _ => none
  else none

/-! Every constructor's decoding, by the byte R92 prints for it. -/

theorem decode_loadKey : decode 0b00000001 = .ok .loadKey := by decide
theorem decode_encBlock : decode 0b00000010 = .ok .encBlock := by decide
theorem decode_decBlock : decode 0b00000011 = .ok .decBlock := by decide
theorem decode_ecbEnc : decode 0b00000100 = .ok .ecbEnc := by decide
theorem decode_ecbDec : decode 0b00000101 = .ok .ecbDec := by decide
theorem decode_flush : decode 0b00000110 = .ok .flush := by decide
theorem decode_cbcEnc : decode 0b00010100 = .ok .cbcEnc := by decide
theorem decode_cbcDec : decode 0b00010101 = .ok .cbcDec := by decide
theorem decode_cfbEnc : decode 0b00100100 = .ok .cfbEnc := by decide
theorem decode_cfbDec : decode 0b00100101 = .ok .cfbDec := by decide
theorem decode_ctrEnc : decode 0b00110100 = .ok .ctrEnc := by decide
theorem decode_ctrDec : decode 0b00110101 = .ok .ctrDec := by decide

end Sys2Proof
end

