-- ==== Sys2Proof/Config.lean ====
section
/-! DEFINITION. What an implementation fixes and the values the spec leaves open. None has a body: nothing in Lean can
evaluate one or prove a value of it. -/

namespace Sys2Proof.Config

/-- How far the open parameter MAX_MSG_BYTES lies above its least value 16 (R8, D9, U11; log 3). -/
opaque extraMsgBytes : Nat

/-- MAX_MSG_BYTES of the machine that `State.reset` describes: any integer at least 16 (R8; log 3). DESIGN CHOICE (safe). -/
def maxMsgBytes : Nat := extraMsgBytes + 16

/-! Free values of the hidden state: what R237 (fault state) and R260 (`RK` after a reset event) leave unspecified. The
argument is the count of draws, `State.freeCount` (log 7, log 8). DESIGN CHOICE (safe). -/

opaque freeRk : Nat → RoundKeys
opaque freeCtxValid : Nat → Bool
opaque freeKeybuf : Nat → List Byte
opaque freeKeycnt : Nat → Nat
opaque freeIvbuf : Nat → List Byte
opaque freeIvcnt : Nat → Nat
opaque freeIbuf : Nat → List Byte
opaque freeObuf : Nat → List Byte
opaque freeOrd : Nat → Nat

end Sys2Proof.Config
end

