-- ==== Sys2Proof/Machine/State.lean ====
section
/-! DEFINITION. The machine's state as plain data (10_state.md), the reasons a step could stop, and the state after
reset (R260, R261). -/

namespace Sys2Proof.Machine

/-- Reasons for the MODEL to stop with a fault: none. The spec's own faults are a state of the engine, not a stop
(R236, R237): they are entered as a next state, and nothing a host can do ends the run (log 12). Safe. -/
inductive Fault where
deriving DecidableEq, Repr

/-- Reasons to give a command no meaning. -/
inductive Refusal where
  /-- A command without a meaning in this model. Raised by a refused arm of `exec` only; every arm has its meaning, so
  nothing raises it. Safe. -/
  | notModelled (mnemonic : String)
deriving DecidableEq, Repr

/-- The engine's state, 10_state.md. Buffers are the lists of their stored bytes, in index order (U3, log 6).

- `keybuf`, `keycnt`: KEYBUF (its first min(KEYCNT, 16) bytes) and KEYCNT (R20)
- `ivbuf`, `ivcnt`: IVBUF (its first min(IVCNT, 16) bytes) and IVCNT (R21)
- `ibuf`: IBUF[0..ICNT] (R22)
- `obuf`, `ord`: OBUF[0..OCNT] and ORD (R23)
- `rk`, `ctxValid`: RK[0..10] and CTX_VALID (R26, R27)
- `result`: RESULT (R30)
- `fault`, `faultCause`: FAULT and FAULTCAUSE (R31)
- `maxMsgBytes`: the parameter MAX_MSG_BYTES (R8, R41); no step writes it (log 3)
- `pending`: what the host and the reset input do next, in order (log 1)
- `reads`: the bytes the host's reads returned, oldest first (R274; log 2)
- `freeCount`: how many free values have been drawn (log 7, log 8) -/
@[ext]
structure State where
  keybuf : List Byte
  keycnt : Nat
  ivbuf : List Byte
  ivcnt : Nat
  ibuf : List Byte
  obuf : List Byte
  ord : Nat
  rk : RoundKeys
  ctxValid : Bool
  result : Byte
  fault : Bool
  faultCause : Byte
  maxMsgBytes : Nat
  pending : List Transaction
  reads : List Byte
  freeCount : Nat
deriving DecidableEq, Repr

/-- ICNT, the count of staged input bytes (R22). -/
def State.icnt (s : State) : Nat := s.ibuf.length

/-- OCNT, the count of output bytes (R23). -/
def State.ocnt (s : State) : Nat := s.obuf.length

/-- Right after reset (R260, R261). `rk` is unspecified there and never read before a `LOAD_KEY`: zero bytes here, DESIGN
CHOICE (unsafe, log 5). `maxMsgBytes` is the open parameter of Config (log 3); nothing is pending or read (log 1, log 2). -/
def State.reset : State where
  keybuf := []
  keycnt := 0
  ivbuf := []
  ivcnt := 0
  ibuf := []
  obuf := []
  ord := 0
  rk := Vector.replicate 11 (Vector.replicate 16 0)
  ctxValid := false
  result := 0x00
  fault := false
  faultCause := 0x00
  maxMsgBytes := Config.maxMsgBytes
  pending := []
  reads := []
  freeCount := 0

end Sys2Proof.Machine
end

