-- ==== Sys2Proof/Machine/Flags.lean ====
section
/-! DEFINITION. The engine's codes and flags: result codes (R231), fault causes (R236), `OAVAIL` (R23) and the `STATUS`
byte (R29). -/

namespace Sys2Proof.Machine

/-- The document's closed error taxonomy (R230, R231). -/
inductive ErrorCode where
  | invalidKeySize
  | invalidBlockSize
  | invalidPadding
  | missingIv
deriving DecidableEq, Repr

/-- The value of `RESULT` for an error (R231). -/
def errorByte : ErrorCode → Byte
  | .invalidKeySize => 0x01
  | .invalidBlockSize => 0x02
  | .invalidPadding => 0x03
  | .missingIv => 0x04

/-- What `raise Fault(cause)` can name (R236). -/
inductive FaultCause where
  | illegalCommand
  | badBlockLength
  | noContext
  | badIvLength
  | bufferOverflow
deriving DecidableEq, Repr

/-- The value of `FAULTCAUSE` for a cause (R236). -/
def causeByte : FaultCause → Byte
  | .illegalCommand => 0x01
  | .badBlockLength => 0x02
  | .noContext => 0x03
  | .badIvLength => 0x04
  | .bufferOverflow => 0x05

/-- How a command that does not fault ends: `return Ok(bytes)` or `return Error(code)` (R10). -/
inductive Reply where
  | ok (bytes : List Byte)
  | error (e : ErrorCode)
deriving DecidableEq, Repr

/-- `code(result)` of the common completion: 0x00 for Ok (R233). -/
def replyCode : Reply → Byte
  | .ok _ => 0x00
  | .error e => errorByte e

/-- The output a reply leaves in `OBUF`: the bytes of an Ok, nothing after an error (R233). -/
def replyBytes : Reply → List Byte
  | .ok bytes => bytes
  | .error _ => []

/-- `OAVAIL = 1 if ORD < OCNT else 0` (R23). -/
def oavail (s : State) : Bool :=
  decide (s.ord < s.ocnt)

/-- The byte `STATUS` reads: 0x80 in the fault state, else `CTX_VALID` in bit 0 and `OAVAIL` in bit 1 (R29). -/
def statusByte (s : State) : Byte :=
  if s.fault then 0x80
  else (if s.ctxValid then 0x01 else 0x00) ||| (if oavail s then 0x02 else 0x00)

end Sys2Proof.Machine
end

