-- ==== Sys2Proof/Machine/Operands.lean ====
section
/-! DEFINITION. The implicit operands of the commands (R93): the staged key, IV, block and message; the splitting of a
message into blocks (R181); XOR of byte strings (R9, R185). -/

namespace Sys2Proof.Machine

/-- The block whose bytes are the first 16 of a byte string. The callers pass 16 bytes; a shorter string, which reaches
this only where its block is never read (U5) or in a state no run reaches, is filled with 0x00 (log 10). -/
def toBlock (d : List Byte) : Block :=
  Vector.ofFn fun i => d.getD i.val 0

/-- `a XOR b` on blocks, position by position (R9). -/
def xorBlock (a b : Block) : Block :=
  Vector.ofFn fun i => a[i.val] ^^^ b[i.val]

/-- `x XOR ks` for a data block of 1 to 16 bytes: the first `len(x)` keystream bytes are used (R185). -/
def xorKeystream (x : List Byte) (ks : Block) : List Byte :=
  List.zipWith (· ^^^ ·) x ks.toList

/-- `KEYBUF[0..16]` (R135). -/
def stagedKey (s : State) : Block := toBlock s.keybuf

/-- `IVBUF[0..16]` (R182). -/
def stagedIv (s : State) : Block := toBlock s.ivbuf

/-- `IBUF[0..16]`, the operand of the block commands (R164). -/
def stagedBlock (s : State) : Block := toBlock s.ibuf

/-- `IBUF[0..ICNT]`, the message of the mode commands (R182). -/
def message (s : State) : List Byte := s.ibuf

/-- `nblocks(n) = ceil(n / 16)` (R181). -/
def nblocks (n : Nat) : Nat := (n + 15) / 16

/-- The first `k` blocks of a byte string: 16 bytes each, the last one what is left (R181). -/
def takeBlocks : Nat → List Byte → List (List Byte)
  | 0, _ => []
  | k + 1, d => d.take 16 :: takeBlocks k (d.drop 16)

/-- All blocks of a byte string in ascending order; a string of length 0 has none (R181). -/
def blocksOf (d : List Byte) : List (List Byte) :=
  takeBlocks (nblocks d.length) d

end Sys2Proof.Machine
end

