-- ==== Sys2Proof/Machine/Ops.lean ====
section
/-! DEFINITION. The operations every command and port shares: entering the fault state (R236, R237), leaving it by reset
(R260), the common completion (R233), the pushes and the pop (R64 to R67), the command prologues (R164, R182). -/

namespace Sys2Proof.Machine

/-- `raise Fault(cause)`: `FAULT <- 1`, `FAULTCAUSE <- cause`, `RESULT` unchanged (R236). "All other state (`RK`,
`CTX_VALID`, buffers, counters) is unobservable and unspecified" from here on (R237), so it takes free values (log 7). -/
def raiseFault (c : FaultCause) (s : State) : State :=
  { s with
    fault := true
    faultCause := causeByte c
    rk := Config.freeRk s.freeCount
    ctxValid := Config.freeCtxValid s.freeCount
    keybuf := Config.freeKeybuf s.freeCount
    keycnt := Config.freeKeycnt s.freeCount
    ivbuf := Config.freeIvbuf s.freeCount
    ivcnt := Config.freeIvcnt s.freeCount
    ibuf := Config.freeIbuf s.freeCount
    obuf := Config.freeObuf s.freeCount
    ord := Config.freeOrd s.freeCount
    freeCount := s.freeCount + 1 }

/-- The reset event (R260), the only way out of the fault state (R245). The counters become 0, so the buffers hold no
byte; `RK` is unspecified: a free value (log 8). -/
def resetEvent (s : State) : State :=
  { s with
    ctxValid := false
    fault := false
    faultCause := 0x00
    result := 0x00
    keybuf := []
    keycnt := 0
    ivbuf := []
    ivcnt := 0
    ibuf := []
    obuf := []
    ord := 0
    rk := Config.freeRk s.freeCount
    freeCount := s.freeCount + 1 }

/-- The common completion of every command that does not fault (R233). -/
def complete (r : Reply) (s : State) : State :=
  { s with
    result := replyCode r
    obuf := replyBytes r
    ord := 0
    keybuf := []
    keycnt := 0
    ivbuf := []
    ivcnt := 0
    ibuf := [] }

/-- The one atomic update of `RK` with its `CTX_VALID <- 1` (R26, R135). -/
def installContext (rk : RoundKeys) (s : State) : State :=
  { s with rk := rk, ctxValid := true }

/-- `KEYCNT <- min(KEYCNT + 1, 17)` and its like (R64, R65). -/
def bumpCount (n : Nat) : Nat := min (n + 1) 17

/-- Store a pushed key or IV byte while fewer than 16 are stored (R64, R65). -/
def storeByte (n : Nat) (buf : List Byte) (v : Byte) : List Byte :=
  if n < 16 then buf ++ [v] else buf

/-- A push to `KEYIN` in a live engine (R64). -/
def pushKey (v : Byte) (s : State) : State :=
  { s with keybuf := storeByte s.keycnt s.keybuf v, keycnt := bumpCount s.keycnt }

/-- A push to `IVIN` in a live engine (R65). -/
def pushIv (v : Byte) (s : State) : State :=
  { s with ivbuf := storeByte s.ivcnt s.ivbuf v, ivcnt := bumpCount s.ivcnt }

/-- A push to `DIN` in a live engine: BufferOverflow when `ICNT = MAX_MSG_BYTES`, and the byte is not stored (R66, R242). -/
def pushData (v : Byte) (s : State) : State :=
  if s.icnt = s.maxMsgBytes then raiseFault .bufferOverflow s
  else { s with ibuf := s.ibuf ++ [v] }

/-- What a read of `DOUT` returns: 0x00 in the fault state or when nothing is left, else `OBUF[ORD]` (R67). -/
def doutByte (s : State) : Byte :=
  if s.fault then 0x00 else s.obuf.getD s.ord 0x00

/-- What a read of `DOUT` does: `ORD` advances exactly when a byte was there (R67). -/
def popDout (s : State) : State :=
  if s.fault then s
  else if s.ord < s.ocnt then { s with ord := s.ord + 1 } else s

/-- The host receives the byte its read returned (R60, R274; log 2). -/
def noteRead (v : Byte) (s : State) : State :=
  { s with reads := s.reads ++ [v] }

/-- The pending events become `rest`: one has been taken off (log 1). -/
def withPending (rest : List Transaction) (s : State) : State :=
  { s with pending := rest }

/-- The checks of the block commands, in order: NoContext, BadBlockLength (R164, R165, R243). -/
def blockPrologue (s : State) (body : State) : State :=
  if s.ctxValid = false then raiseFault .noContext s
  else if s.icnt ≠ 16 then raiseFault .badBlockLength s
  else body

/-- The common prologue of the mode commands, `mode_prologue(m)` (R182): NoContext; then, but for ECB, MissingIv and
BadIvLength. -/
def modePrologue (m : Mode) (s : State) (body : State) : State :=
  if s.ctxValid = false then raiseFault .noContext s
  else if m ≠ .ecb ∧ s.ivcnt = 0 then complete (.error .missingIv) s
  else if m ≠ .ecb ∧ s.ivcnt ≠ 16 then raiseFault .badIvLength s
  else body

/-- The length check of the padded modes on decryption: InvalidBlockSize when `n mod 16 != 0` (R184, R187). -/
def wholeBlocks (s : State) (body : State) : State :=
  if s.icnt % 16 ≠ 0 then complete (.error .invalidBlockSize) s else body

end Sys2Proof.Machine
end

