-- ==== Sys2Proof/Machine/BlockTransform.lean ====
section
/-! DEFINITION. BlockTransform: the seven round steps (R150 to R157), the forward and inverse cipher (R158, R161), and
the commands `ENC_BLOCK` (R164) and `DEC_BLOCK` (R165). The scratch `STATE` and the counter `RND` are the value passed
along and the list of rounds (R35, R159; log 9). -/

namespace Sys2Proof.Machine

/-- The matrix view `s[r][c] = s[r + 4*c]` (R11). -/
def cell (s : Block) (r c : Fin 4) : Byte := s[r.val + 4 * c.val]

/-- The block whose matrix entry at row `r`, column `c` is `f r c` (R11). -/
def ofCells (f : Fin 4 → Fin 4 → Byte) : Block :=
  Vector.ofFn fun i => f ⟨i.val % 4, by omega⟩ ⟨i.val / 4, by omega⟩

/-- `SHIFT_OFF[r] = r`, the rotation offset of a row (R40, R152). -/
def shiftOff (r : Fin 4) : Fin 4 := r

/-- `AddRoundKey(s, k)` (R150). -/
def addRoundKey (s k : Block) : Block := xorBlock s k

/-- `SubBytes(s)` (R151). -/
def subBytes (s : Block) : Block := Vector.ofFn fun i => sbox s[i.val]

/-- `ShiftRows(s)[r][c] = s[r][(c + r) mod 4]` (R152). -/
def shiftRows (s : Block) : Block := ofCells fun r c => cell s r (c + shiftOff r)

/-- The matrix `MIX`, by rows (R153). -/
def mixRows : List (List Byte) :=
  [[0x2, 0x3, 0x1, 0x1], [0x1, 0x2, 0x3, 0x1], [0x1, 0x1, 0x2, 0x3], [0x3, 0x1, 0x1, 0x2]]

/-- The matrix `INV_MIX`, by rows (R157). -/
def invMixRows : List (List Byte) :=
  [[0xE, 0xB, 0xD, 0x9], [0x9, 0xE, 0xB, 0xD], [0xD, 0x9, 0xE, 0xB], [0xB, 0xD, 0x9, 0xE]]

/-- Entry `k` of row `r` of a coefficient matrix. -/
def coeff (m : List (List Byte)) (r k : Fin 4) : Byte := (m.getD r.val []).getD k.val 0

/-- The product of a coefficient matrix with every column of the state, the matrix on the left (R153, R157). -/
def mulColumns (m : List (List Byte)) (s : Block) : Block :=
  ofCells fun r c =>
    gfMul (coeff m r 0) (cell s 0 c) ^^^ gfMul (coeff m r 1) (cell s 1 c) ^^^
    gfMul (coeff m r 2) (cell s 2 c) ^^^ gfMul (coeff m r 3) (cell s 3 c)

/-- `MixColumns(s)` (R153). -/
def mixColumns (s : Block) : Block := mulColumns mixRows s

/-- `InvShiftRows(s)[r][c] = s[r][(c - r) mod 4]` (R154). -/
def invShiftRows (s : Block) : Block := ofCells fun r c => cell s r (c - shiftOff r)

/-- `InvSubBytes(s)` (R155). -/
def invSubBytes (s : Block) : Block := Vector.ofFn fun i => invSbox s[i.val]

/-- `InvMixColumns(s)` (R157). -/
def invMixColumns (s : Block) : Block := mulColumns invMixRows s

/-- Rounds 1 to 9 of the forward cipher (R158). -/
def encRound (s k : Block) : Block := addRoundKey (mixColumns (shiftRows (subBytes s))) k

/-- Round 10 of the forward cipher, without MixColumns (R158). -/
def encFinal (s k : Block) : Block := addRoundKey (shiftRows (subBytes s)) k

/-- `encrypt_block(RK, b)`, written `E(b)` (R158): `RND` = 0, then 1, …, 9, then 10. -/
def encryptBlock (rk : RoundKeys) (b : Block) : Block :=
  encFinal (([1, 2, 3, 4, 5, 6, 7, 8, 9] : List (Fin 11)).foldl (fun s r => encRound s rk[r.val]) (addRoundKey b rk[0]))
    rk[10]

/-- Rounds 9 to 1 of the inverse cipher: AddRoundKey comes before InvMixColumns (R161, R162). -/
def decRound (s k : Block) : Block := invMixColumns (addRoundKey (invSubBytes (invShiftRows s)) k)

/-- The last round of the inverse cipher (R161). -/
def decFinal (s k : Block) : Block := addRoundKey (invSubBytes (invShiftRows s)) k

/-- `decrypt_block(RK, b)`, written `D(b)` (R161): `RND` = 10, then 9, …, 1, then 0. -/
def decryptBlock (rk : RoundKeys) (b : Block) : Block :=
  decFinal (([9, 8, 7, 6, 5, 4, 3, 2, 1] : List (Fin 11)).foldl (fun s r => decRound s rk[r.val]) (addRoundKey b rk[10]))
    rk[0]

/-- `ENC_BLOCK` (R164). -/
def execEncBlock (s : State) : Host.Outcome State Fault Refusal :=
  .next (blockPrologue s (complete (.ok (encryptBlock s.rk (stagedBlock s)).toList) s))

/-- `DEC_BLOCK` (R165). -/
def execDecBlock (s : State) : Host.Outcome State Fault Refusal :=
  .next (blockPrologue s (complete (.ok (decryptBlock s.rk (stagedBlock s)).toList) s))

end Sys2Proof.Machine
end

