-- ==== Sys2Proof/Machine/Housekeeping.lean ====
section
/-! DEFINITION. The housekeeping command `FLUSH` (R220). -/

namespace Sys2Proof.Machine

/-- `FLUSH` (R220): `return Ok(empty)`, so the completion empties staging and output; the context stays. -/
def execFlush (s : State) : Host.Outcome State Fault Refusal :=
  .next (complete (.ok []) s)

end Sys2Proof.Machine
end

