-- ==== Sys2Proof/Machine/KeySchedule.lean ====
section
/-! DEFINITION. KeySchedule (R130 to R133) and the command `LOAD_KEY` (R135). -/

namespace Sys2Proof.Machine

/-- `RotWord`: cyclic left rotation of the 4 bytes by one position (R131). -/
def rotWord (t : KeyWord) : KeyWord := #v[t[1], t[2], t[3], t[0]]

/-- `SubWord`: the S-box on each of the 4 bytes (R132). -/
def subWord (t : KeyWord) : KeyWord := #v[sbox t[0], sbox t[1], sbox t[2], sbox t[3]]

/-- XOR of byte 0 with a round constant; the other bytes stay (R133). -/
def addRcon (c : Byte) (t : KeyWord) : KeyWord := #v[t[0] ^^^ c, t[1], t[2], t[3]]

/-- `W[a .. a+4]` (R133). The schedule reads only bytes it has written (log 10). -/
def wordAt (w : List Byte) (a : Nat) : KeyWord :=
  #v[w.getD a 0, w.getD (a + 1) 0, w.getD (a + 2) 0, w.getD (a + 3) 0]

/-- `temp` at index `KI`: the previous word, put through RotWord, SubWord and Rcon where a round key starts (R133). -/
def scheduleTemp (w : List Byte) (ki : Nat) : KeyWord :=
  if ki % 16 = 0 then addRcon (rcon (ki / 16)) (subWord (rotWord (wordAt w (ki - 4))))
  else wordAt w (ki - 4)

/-- `W[KI .. KI+4]`: the word 16 bytes back XOR `temp` (R133). -/
def scheduleWord (w : List Byte) (ki : Nat) : List Byte :=
  List.zipWith (· ^^^ ·) (wordAt w (ki - 16)).toList (scheduleTemp w ki).toList

/-- The loop of `expand` over `n` words from index `KI` on, `W` filled below `KI` (R133, R136). -/
def scheduleLoop : Nat → Nat → List Byte → List Byte
  | 0, _, w => w
  | n + 1, ki, w => scheduleLoop n (ki + 4) (w ++ scheduleWord w ki)

/-- The flat ExpandedKey `W[0..175]`: the key, then 40 words at `KI` = 16, 20, …, 172 (R133, C3). -/
def expandFlat (key : Block) : List Byte := scheduleLoop 40 16 key.toList

/-- `expand(key)` as round keys, `RK[r] = W[16*r .. 16*r+16]` (R133). -/
def expand (key : Block) : RoundKeys :=
  Vector.ofFn fun r => toBlock ((expandFlat key).drop (16 * r.val))

/-- `LOAD_KEY` (R135). -/
def execLoadKey (s : State) : Host.Outcome State Fault Refusal :=
  .next (if s.keycnt ≠ 16 then complete (.error .invalidKeySize) s
         else complete (.ok []) (installContext (expand (stagedKey s)) s))

end Sys2Proof.Machine
end

