-- ==== Sys2Proof/Machine/PaddingCodec.lean ====
section
/-! DEFINITION. PaddingCodec: `add_padding` (R211) and `remove_padding` (R212), block size 16 (R210). -/

namespace Sys2Proof.Machine

/-- The padding length `N` of R211. The test `N = 0` is the document's and is never true (C4). -/
def padLength (n : Nat) : Nat :=
  if 16 - n % 16 = 0 then 16 else 16 - n % 16

/-- `add_padding(data)` (R211). -/
def addPadding (data : List Byte) : List Byte :=
  data ++ List.replicate (padLength data.length) (BitVec.ofNat 8 (padLength data.length))

/-- `remove_padding(data)` (R212): Ok of the data without its last `L` bytes, or InvalidPadding. -/
def removePadding (data : List Byte) : Reply :=
  match data.getLast? with
  | none => .error .invalidPadding
  | some l =>
    if l.toNat = 0 then .error .invalidPadding
    else if l.toNat > 16 then .error .invalidPadding
    else if l.toNat > data.length then .error .invalidPadding
    else if (data.drop (data.length - l.toNat)).all (fun v => v == l) then
      .ok (data.take (data.length - l.toNat))
    else .error .invalidPadding

end Sys2Proof.Machine
end

