-- ==== Sys2Proof/Machine/ModeDriver.lean ====
section
/-! DEFINITION. ModeDriver (R180 to R195): ECB, CBC, CFB with 16-byte feedback, CTR, and the eight mode commands. Each
mode is a recursion over the message's blocks in ascending order (R181); `CHAIN` is its argument (R36; log 9). -/

namespace Sys2Proof.Machine

/-- ECB, encrypt: `C_i = E(P_i)` (R180, R183). -/
def ecbEncrypt (rk : RoundKeys) : List (List Byte) → List Byte
  | [] => []
  | p :: ps => (encryptBlock rk (toBlock p)).toList ++ ecbEncrypt rk ps

/-- ECB, decrypt: `P_i = D(C_i)` (R180, R184). -/
def ecbDecrypt (rk : RoundKeys) : List (List Byte) → List Byte
  | [] => []
  | c :: cs => (decryptBlock rk (toBlock c)).toList ++ ecbDecrypt rk cs

/-- CBC, encrypt: `C_i = E(P_i XOR C_{i-1})`; the chain is the previous ciphertext block, the IV first (R180, R186). -/
def cbcEncrypt (rk : RoundKeys) : Block → List (List Byte) → List Byte
  | _, [] => []
  | chain, p :: ps =>
    let c := encryptBlock rk (xorBlock (toBlock p) chain)
    c.toList ++ cbcEncrypt rk c ps

/-- CBC, decrypt: `P_i = D(C_i) XOR C_{i-1}`; the chain is the ciphertext block (R180, R187). -/
def cbcDecrypt (rk : RoundKeys) : Block → List (List Byte) → List Byte
  | _, [] => []
  | chain, c :: cs => (xorBlock (decryptBlock rk (toBlock c)) chain).toList ++ cbcDecrypt rk (toBlock c) cs

/-- CFB, encrypt: `C_i = P_i XOR E(R_{i-1})`, `R_i = C_i` (R180, R188). After a partial block, the last, the chain is not
read again (U5). -/
def cfbEncrypt (rk : RoundKeys) : Block → List (List Byte) → List Byte
  | _, [] => []
  | chain, p :: ps =>
    let c := xorKeystream p (encryptBlock rk chain)
    c ++ cfbEncrypt rk (toBlock c) ps

/-- CFB, decrypt: `P_i = C_i XOR E(R_{i-1})`, `R_i = C_i` from the ciphertext input (R180, R189). -/
def cfbDecrypt (rk : RoundKeys) : Block → List (List Byte) → List Byte
  | _, [] => []
  | chain, c :: cs => xorKeystream c (encryptBlock rk chain) ++ cfbDecrypt rk (toBlock c) cs

/-- `be128(x)`: a block as a big-endian integer, byte 0 most significant (R192). -/
def be128 (x : Block) : Nat := x.toList.foldl (fun acc v => acc * 256 + v.toNat) 0

/-- `bytes128(v)`: the inverse of `be128` on `0 <= v < 2^128` (R192). -/
def bytes128 (v : Nat) : Block := Vector.ofFn fun j => BitVec.ofNat 8 (v / 256 ^ (15 - j.val))

/-- `ctr_block(IV, i)` (R192). -/
def ctrBlock (iv : Block) (i : Nat) : Block := bytes128 ((be128 iv + i) % 2 ^ 128)

/-- CTR, both directions: block `i` XOR `E(ctr_block(IV, i))`, from index `i` on (R190, R191). -/
def ctrCrypt (rk : RoundKeys) (iv : Block) : Nat → List (List Byte) → List Byte
  | _, [] => []
  | i, x :: xs => xorKeystream x (encryptBlock rk (ctrBlock iv i)) ++ ctrCrypt rk iv (i + 1) xs

/-- `ECB_ENC` (R183). -/
def execEcbEnc (s : State) : Host.Outcome State Fault Refusal :=
  .next (modePrologue .ecb s
    (complete (.ok (ecbEncrypt s.rk (blocksOf (addPadding (message s))))) s))

/-- `ECB_DEC` (R184). -/
def execEcbDec (s : State) : Host.Outcome State Fault Refusal :=
  .next (modePrologue .ecb s (wholeBlocks s
    (complete (removePadding (ecbDecrypt s.rk (blocksOf (message s)))) s)))

/-- `CBC_ENC` (R186). -/
def execCbcEnc (s : State) : Host.Outcome State Fault Refusal :=
  .next (modePrologue .cbc s
    (complete (.ok (cbcEncrypt s.rk (stagedIv s) (blocksOf (addPadding (message s))))) s))

/-- `CBC_DEC` (R187). -/
def execCbcDec (s : State) : Host.Outcome State Fault Refusal :=
  .next (modePrologue .cbc s (wholeBlocks s
    (complete (removePadding (cbcDecrypt s.rk (stagedIv s) (blocksOf (message s)))) s)))

/-- `CFB_ENC` (R188). -/
def execCfbEnc (s : State) : Host.Outcome State Fault Refusal :=
  .next (modePrologue .cfb s
    (complete (.ok (cfbEncrypt s.rk (stagedIv s) (blocksOf (message s)))) s))

/-- `CFB_DEC` (R189). -/
def execCfbDec (s : State) : Host.Outcome State Fault Refusal :=
  .next (modePrologue .cfb s
    (complete (.ok (cfbDecrypt s.rk (stagedIv s) (blocksOf (message s)))) s))

/-- `CTR_ENC` (R190). -/
def execCtrEnc (s : State) : Host.Outcome State Fault Refusal :=
  .next (modePrologue .ctr s
    (complete (.ok (ctrCrypt s.rk (stagedIv s) 0 (blocksOf (message s)))) s))

/-- `CTR_DEC` (R191). -/
def execCtrDec (s : State) : Host.Outcome State Fault Refusal :=
  .next (modePrologue .ctr s
    (complete (.ok (ctrCrypt s.rk (stagedIv s) 0 (blocksOf (message s)))) s))

end Sys2Proof.Machine
end

