-- ==== Sys2Proof/Machine/Bus.lean ====
section
/-! DEFINITION. What each host transaction and the reset event do (R60 to R68, R260). -/

namespace Sys2Proof.Machine

/-- `MemWrite(0, 1, v)` in a live engine: the command, or the fault IllegalCommand (R68, R95). -/
def writeCmd (v : Byte) (s : State) : Host.Outcome State Fault Refusal :=
  match decode v with
  | .ok i => exec i s
  | .error .illegalCommand => .next (raiseFault .illegalCommand s)

/-- A write to a register of a live engine (R62 to R68); writes to read-only registers are ignored (R63). -/
def writeLive (r : HostReg) (v : Byte) (s : State) : Host.Outcome State Fault Refusal :=
  match r with
  | .cmd => writeCmd v s
  | .status => .next s
  | .result => .next s
  | .faultCause => .next s
  | .keyIn => .next (pushKey v s)
  | .ivIn => .next (pushIv v s)
  | .din => .next (pushData v s)
  | .dout => .next s

/-- `MemWrite(off, 1, v)`: ignored while `FAULT = 1` (R237, R243). -/
def writeReg (r : HostReg) (v : Byte) (s : State) : Host.Outcome State Fault Refusal :=
  if s.fault then .next s else writeLive r v s

/-- The byte a read returns (R29 to R32, R63, R67); write-only registers read 0x00. -/
def readByte (r : HostReg) (s : State) : Byte :=
  match r with
  | .cmd => 0x00
  | .status => statusByte s
  | .result => s.result
  | .faultCause => s.faultCause
  | .keyIn => 0x00
  | .ivIn => 0x00
  | .din => 0x00
  | .dout => doutByte s

/-- What a read changes in the engine: nothing, but for the pop of `DOUT` (R67, R71). -/
def readEffect (r : HostReg) (s : State) : State :=
  match r with
  | .dout => popDout s
  | .cmd => s
  | .status => s
  | .result => s
  | .faultCause => s
  | .keyIn => s
  | .ivIn => s
  | .din => s

/-- `MemRead(off, 1)`: the host receives the byte, the register's read effect happens. -/
def readReg (r : HostReg) (s : State) : State :=
  noteRead (readByte r s) (readEffect r s)

/-- One event: the reset, a read or a write (R6, R60, R260). -/
def transact (t : Transaction) (s : State) : Host.Outcome State Fault Refusal :=
  match t with
  | .reset => .next (resetEvent s)
  | .read off => .next (readReg (regOf off) s)
  | .write off v => writeReg (regOf off) v s

end Sys2Proof.Machine
end

