-- ==== Sys2Proof/Machine/Step.lean ====
section
/-! DEFINITION. One step: the next pending event happens, to its end (R60, R74). There is no program counter and no fetch
(R24, R77): a command is the byte of a pending write to `CMD`. -/

namespace Sys2Proof.Machine

/-- One transaction or reset of the total order (R60, R74). With nothing pending the engine is idle: nothing changes
(R6, R249; log 1). -/
def step (s : State) : Host.Outcome State Fault Refusal :=
  match s.pending with
  | [] => .next s
  | t :: rest => transact t (withPending rest s)

/-- The host's next transaction is the write of the command byte `w` to `CMD`, offset 0 (R68; log 1). Bits
above `nbits` are 0. -/
def State.withFetchWord (s : State) (nbits w : Nat) : State :=
  withPending (.write 0 (BitVec.ofNat 8 (w % 2 ^ nbits)) :: s.pending) s

end Sys2Proof.Machine
end

