-- ==== Sys2Proof/Laws/PerInstr.lean ====
section
/-! SUPPORT. Facts about every command as syntax, one lemma per constructor. -/

namespace Sys2Proof.Laws

/-- The encoding facts of a command: its fields are legal (R91), its table byte (R92) is the byte of its fields, and the
byte decodes to it. -/
def CommandEncoding.Statement (i : Instr) : Prop :=
  i.wellFormed = true ∧ byteOfFields i.fields = encode i ∧ decode (encode i) = .ok i

theorem CommandEncoding.loadKey : CommandEncoding.Statement .loadKey := ⟨by decide, by decide, by decide⟩
theorem CommandEncoding.encBlock : CommandEncoding.Statement .encBlock := ⟨by decide, by decide, by decide⟩
theorem CommandEncoding.decBlock : CommandEncoding.Statement .decBlock := ⟨by decide, by decide, by decide⟩
theorem CommandEncoding.ecbEnc : CommandEncoding.Statement .ecbEnc := ⟨by decide, by decide, by decide⟩
theorem CommandEncoding.ecbDec : CommandEncoding.Statement .ecbDec := ⟨by decide, by decide, by decide⟩
theorem CommandEncoding.flush : CommandEncoding.Statement .flush := ⟨by decide, by decide, by decide⟩
theorem CommandEncoding.cbcEnc : CommandEncoding.Statement .cbcEnc := ⟨by decide, by decide, by decide⟩
theorem CommandEncoding.cbcDec : CommandEncoding.Statement .cbcDec := ⟨by decide, by decide, by decide⟩
theorem CommandEncoding.cfbEnc : CommandEncoding.Statement .cfbEnc := ⟨by decide, by decide, by decide⟩
theorem CommandEncoding.cfbDec : CommandEncoding.Statement .cfbDec := ⟨by decide, by decide, by decide⟩
theorem CommandEncoding.ctrEnc : CommandEncoding.Statement .ctrEnc := ⟨by decide, by decide, by decide⟩
theorem CommandEncoding.ctrDec : CommandEncoding.Statement .ctrDec := ⟨by decide, by decide, by decide⟩

end Sys2Proof.Laws
end

