-- ==== Sys2Proof/Safety.lean ====
section
/-! DEFINITION. What claims are stated in: the invariant of R42, the observable end state of R274, and when no host can
tell two states apart. -/

namespace Sys2Proof.Machine

/-- What R42 says of a live engine. -/
structure State.LiveInv (s : State) : Prop where
  keycnt : s.keycnt ≤ 17
  keybuf : s.keybuf.length = min s.keycnt 16
  ivcnt : s.ivcnt ≤ 17
  ivbuf : s.ivbuf.length = min s.ivcnt 16
  icnt : s.icnt ≤ s.maxMsgBytes
  ord : s.ord ≤ s.ocnt
  ocnt : s.ocnt ≤ s.maxMsgBytes + 16
  context : s.ctxValid = true → ∃ key : Block, s.rk = expand key
  cause : s.faultCause = 0x00

/-- The invariant of R42: in a live engine what `LiveInv` says; in the fault state a cause in 1..5, and nothing of the
hidden state (R237); `RESULT` in 0..4 (R30); the parameter at least 16 (R8). -/
structure State.Inv (s : State) : Prop where
  live : s.fault = false → s.LiveInv
  faulted : s.fault = true → 1 ≤ s.faultCause.toNat ∧ s.faultCause.toNat ≤ 5
  result : s.result.toNat ≤ 4
  capacity : 16 ≤ s.maxMsgBytes

/-- The observable end state of R274: the three status views, the unread output, and every value a read returned. In the
fault state no output can be read (R237). -/
structure Observed where
  status : Byte
  result : Byte
  faultCause : Byte
  unread : List Byte
  reads : List Byte
deriving DecidableEq, Repr

/-- What the host can know of a state (R274). -/
def observe (s : State) : Observed where
  status := statusByte s
  result := s.result
  faultCause := s.faultCause
  unread := if s.fault then [] else s.obuf.drop s.ord
  reads := s.reads

/-- A run is good when no fault was raised by its end (R274). -/
def State.good (s : State) : Bool := !s.fault

/-- The part of two live states a host's transactions can ever bring to light is equal: all but `RK`, and `RK` too once a
context exists (R26). -/
structure SameLive (s s' : State) : Prop where
  keybuf : s.keybuf = s'.keybuf
  keycnt : s.keycnt = s'.keycnt
  ivbuf : s.ivbuf = s'.ivbuf
  ivcnt : s.ivcnt = s'.ivcnt
  ibuf : s.ibuf = s'.ibuf
  obuf : s.obuf = s'.obuf
  ord : s.ord = s'.ord
  ctxValid : s.ctxValid = s'.ctxValid
  rk : s.ctxValid = true → s.rk = s'.rk

/-- Two states that differ only in what the spec leaves unspecified: hidden state under a fault (R237), `RK` without a
context (R26, U2), and how many free values were drawn. -/
structure SameToHost (s s' : State) : Prop where
  result : s.result = s'.result
  fault : s.fault = s'.fault
  faultCause : s.faultCause = s'.faultCause
  maxMsgBytes : s.maxMsgBytes = s'.maxMsgBytes
  pending : s.pending = s'.pending
  reads : s.reads = s'.reads
  live : s.fault = false → SameLive s s'

end Sys2Proof.Machine
end

