-- ==== Sys2Proof/Certificates/Slice0/Obligations.lean ====
section
/-! DEFINITION. The statements for the provers, and the few words they are written in. -/

namespace Sys2Proof.Statements

open Sys2Proof Sys2Proof.Machine

/-- The state after a command that completed with this code and output, written out from R233. -/
def completed (code : Byte) (out : List Byte) (s : State) : State :=
  { s with
    result := code, obuf := out, ord := 0
    keybuf := [], keycnt := 0, ivbuf := [], ivcnt := 0, ibuf := [] }

/-- `s` entered the fault state with a cause: what R236 and R237 say is known of the state after it. -/
structure FaultedWith (cause : Byte) (s t : State) : Prop where
  fault : t.fault = true
  cause : t.faultCause = cause
  result : t.result = s.result
  maxMsgBytes : t.maxMsgBytes = s.maxMsgBytes
  pending : t.pending = s.pending
  reads : t.reads = s.reads

/-- Block `i` of a byte string: bytes `16*i` to `16*i + 15` (R181). -/
def blockAt (d : List Byte) (i : Nat) : Block := Vector.ofFn fun j => d.getD (16 * i + j.val) 0

/-- `n` bytes of value `n` (R211). -/
def padBytes (n : Nat) : List Byte := List.replicate n (BitVec.ofNat 8 n)

/-- The message followed by `N = 16 - (len mod 16)` bytes of value `N` (R211). -/
def padded (d : List Byte) : List Byte := d ++ padBytes (16 - d.length % 16)

/-- A live engine with a context (R27). -/
def Ready (s : State) : Prop := s.fault = false ∧ s.ctxValid = true

/-- A live engine with a context and a staged 16-byte IV (R21). -/
def ReadyIv (iv : Block) (s : State) : Prop :=
  s.fault = false ∧ s.ctxValid = true ∧ s.ivcnt = 16 ∧ s.ivbuf = iv.toList

/-- `work` is a plaintext with one of the sixteen valid paddings behind it (R211, R212). -/
def IsPaddingOf (plain work : List Byte) : Prop :=
  ∃ n, 1 ≤ n ∧ n ≤ 16 ∧ work = plain ++ padBytes n

/-- How a padded-mode decryption ends once the data are decrypted: Ok with the unpadded bytes, or InvalidPadding with no
output (R184, R187, R212). -/
def UnpadsTo (i : Instr) (s : State) (work : List Byte) : Prop :=
  (∃ plain, IsPaddingOf plain work ∧ exec i s = .next (completed 0x00 plain s)) ∨
  ((¬ ∃ plain, IsPaddingOf plain work) ∧ exec i s = .next (completed 0x03 [] s))

/-- The commands that need a context (R239). -/
def needsContext : List Instr :=
  [.encBlock, .decBlock, .ecbEnc, .ecbDec, .cbcEnc, .cbcDec, .cfbEnc, .cfbDec, .ctrEnc, .ctrDec]

/-- The block commands (R164, R165). -/
def blockCommands : List Instr := [.encBlock, .decBlock]

/-- The mode commands that need an IV (R241). -/
def chainedCommands : List Instr := [.cbcEnc, .cbcDec, .cfbEnc, .cfbDec, .ctrEnc, .ctrDec]

/-- The commands that decrypt whole blocks and unpad (R194). -/
def unpaddingCommands : List Instr := [.ecbDec, .cbcDec]

/-- The fault causes a command can raise (R194 for the modes, R239 and R240 for the block commands, R135, R220). -/
def possibleCauses : Instr → List Byte
  | .loadKey => []
  | .flush => []
  | .encBlock => [0x02, 0x03]
  | .decBlock => [0x02, 0x03]
  | .ecbEnc => [0x03]
  | .ecbDec => [0x03]
  | .cbcEnc => [0x03, 0x04]
  | .cbcDec => [0x03, 0x04]
  | .cfbEnc => [0x03, 0x04]
  | .cfbDec => [0x03, 0x04]
  | .ctrEnc => [0x03, 0x04]
  | .ctrDec => [0x03, 0x04]

/-- The result codes a command can end with (R194 for the modes, R231 and R232 for the others). -/
def possibleResults : Instr → List Byte
  | .loadKey => [0x00, 0x01]
  | .flush => [0x00]
  | .encBlock => [0x00]
  | .decBlock => [0x00]
  | .ecbEnc => [0x00]
  | .ecbDec => [0x00, 0x02, 0x03]
  | .cbcEnc => [0x00, 0x04]
  | .cbcDec => [0x00, 0x02, 0x03, 0x04]
  | .cfbEnc => [0x00, 0x04]
  | .cfbDec => [0x00, 0x04]
  | .ctrEnc => [0x00, 0x04]
  | .ctrDec => [0x00, 0x04]

/-- The data `remove_padding` is given by the two unpadding commands (R184, R187). -/
def decryptedWork (i : Instr) (s : State) : List Byte :=
  if i = .ecbDec then ecbDecrypt s.rk (blocksOf s.ibuf) else cbcDecrypt s.rk (stagedIv s) (blocksOf s.ibuf)

/-- `(FAULT, FAULTCAUSE, RESULT)` after a command, by the checks (3) to (8) of R243 in their order. -/
def commandOutcome (i : Instr) (s : State) : Bool × Byte × Byte :=
  if i ∈ needsContext ∧ s.ctxValid = false then (true, 0x03, s.result)
  else if i ∈ blockCommands ∧ s.ibuf.length ≠ 16 then (true, 0x02, s.result)
  else if i ∈ chainedCommands ∧ s.ivcnt = 0 then (false, s.faultCause, 0x04)
  else if i ∈ chainedCommands ∧ s.ivcnt ≠ 16 then (true, 0x04, s.result)
  else if i ∈ unpaddingCommands ∧ s.ibuf.length % 16 ≠ 0 then (false, s.faultCause, 0x02)
  else if i = .loadKey ∧ s.keycnt ≠ 16 then (false, s.faultCause, 0x01)
  else if i ∈ unpaddingCommands ∧ removePadding (decryptedWork i s) = .error .invalidPadding then
    (false, s.faultCause, 0x03)
  else (false, s.faultCause, 0x00)

/-- `(FAULT, FAULTCAUSE, RESULT)` after a write of `v` to `CMD`, by R243. -/
def writeOutcome (v : Byte) (s : State) : Bool × Byte × Byte :=
  if s.fault = true then (true, s.faultCause, s.result)
  else match decode v with
    | .error .illegalCommand => (true, 0x01, s.result)
    | .ok i => commandOutcome i s

/-- The illegal bytes, by the ranges R95 lists. -/
def illegalByte (v : Byte) : Prop :=
  v.toNat = 0x00 ∨ (0x07 ≤ v.toNat ∧ v.toNat ≤ 0x0F) ∨ (0x10 ≤ v.toNat ∧ v.toNat ≤ 0x13) ∨
  (0x16 ≤ v.toNat ∧ v.toNat ≤ 0x23) ∨ (0x26 ≤ v.toNat ∧ v.toNat ≤ 0x33) ∨ (0x36 ≤ v.toNat ∧ v.toNat ≤ 0xFF)

/-- Increment a big-endian byte string, least significant byte first in the list: while a byte wraps from 0xff to 0x00,
carry into the next (R192). -/
def incrementLow : List Byte → List Byte
  | [] => []
  | v :: vs => if v = 0xFF then 0x00 :: incrementLow vs else (v + 1) :: vs

/-- Each mode's encryption with its decryption (R193). -/
def modePairs : List (Instr × Instr) :=
  [(.ecbEnc, .ecbDec), (.cbcEnc, .cbcDec), (.cfbEnc, .cfbDec), (.ctrEnc, .ctrDec)]

/-- The byte a read returns in the fault state (R237). -/
def faultRead (s : State) (off : BitVec 3) : Byte :=
  if off = 1 then 0x80 else if off = 2 then s.result else if off = 3 then s.faultCause else 0x00

end Sys2Proof.Statements

open Sys2Proof Sys2Proof.Machine Sys2Proof.Statements

/-! ## Encoding and step -/

/-- R92 and R98: the byte of each row decodes to the row's command. Words written out from the table. -/
def Obligations.TableBytesDecodeToTheirCommands : Prop :=
  decode 0b00000001 = .ok .loadKey ∧ decode 0b00000010 = .ok .encBlock ∧ decode 0b00000011 = .ok .decBlock ∧
  decode 0b00000100 = .ok .ecbEnc ∧ decode 0b00000101 = .ok .ecbDec ∧ decode 0b00000110 = .ok .flush ∧
  decode 0b00010100 = .ok .cbcEnc ∧ decode 0b00010101 = .ok .cbcDec ∧ decode 0b00100100 = .ok .cfbEnc ∧
  decode 0b00100101 = .ok .cfbDec ∧ decode 0b00110100 = .ok .ctrEnc ∧ decode 0b00110101 = .ok .ctrDec

/-- R91, R92: a byte decodes to a command exactly when it is that command's encoding, every command's fields are legal,
and its byte is made of them. -/
def Obligations.DecodeAndEncodeAgree : Prop :=
  (∀ v i, decode v = .ok i ↔ encode i = v) ∧ ∀ i, Laws.CommandEncoding.Statement i

/-- R95: the illegal bytes are those of the listed ranges, and there are 244 of them. -/
def Obligations.IllegalBytesAreTheListedRanges : Prop :=
  (∀ v, decode v = .error .illegalCommand ↔ illegalByte v) ∧
  ((List.range 256).filter fun n => decode (BitVec.ofNat 8 n) = .error .illegalCommand).length = 244

/-- R68: in a live engine a step whose next transaction writes a legal byte to `CMD` is that command's `exec`, at the state
with the transaction taken off. -/
def Obligations.StepRunsTheDecodedCommand : Prop :=
  ∀ s v i rest, s.fault = false → s.pending = .write 0 v :: rest → decode v = .ok i →
    step s = exec i { s with pending := rest }

/-- R60, R74, R272: every step of every state answers a next state. With something pending exactly the next event is
taken, one byte reaches the host if it is a read, none otherwise, and MAX_MSG_BYTES stays (R41). With nothing pending the
state stays (the model's choice, log 1). -/
def Obligations.EveryStepCompletesOneEvent : Prop :=
  ∀ s, ∃ t, step s = .next t ∧ t.maxMsgBytes = s.maxMsgBytes ∧
    (s.pending = [] → t = s) ∧
    ∀ e rest, s.pending = e :: rest → t.pending = rest ∧
      ((∃ off, e = .read off) → ∃ v, t.reads = s.reads ++ [v]) ∧
      ((¬ ∃ off, e = .read off) → t.reads = s.reads)

/-! ## Invariants and whole-machine rules -/

/-- R42: every step keeps the invariant, from every state that has it. -/
def Obligations.StepKeepsEngineInvariant : Prop :=
  ∀ s t, s.Inv → step s = .next t → t.Inv

/-- R42, R260: the state after reset has the invariant. -/
def Obligations.ResetStateHasEngineInvariant : Prop := State.reset.Inv

/-- R237, R26, R261: no run of any length shows the host what the spec leaves unspecified. Two states that differ only in
the hidden state under a fault, or in `RK` without a context, give the host the same observations for ever. -/
def Obligations.UnspecifiedStateNeverReachesTheHost : Prop :=
  ∀ n s s' t t', SameToHost s s' → Host.Core.run core n s = .next t → Host.Core.run core n s' = .next t' →
    SameToHost t t' ∧ observe t = observe t'

/-- R26, R27, R221: outside the fault state `RK` and `CTX_VALID` change only by a reset or by a `LOAD_KEY` with 16 staged
key bytes, and no command clears `CTX_VALID`. -/
def Obligations.ContextChangesOnlyByLoadKeyOrReset : Prop :=
  ∀ s t, s.fault = false → step s = .next t → t.fault = false →
    (∃ rest, s.pending = .reset :: rest) ∨
    (∃ rest, s.pending = .write 0 0x01 :: rest ∧ s.keycnt = 16 ∧ t.ctxValid = true) ∨
    (t.rk = s.rk ∧ t.ctxValid = s.ctxValid)

/-- R245: only a reset leaves the fault state, it destroys context and buffers, and until then cause and `RESULT` stay. -/
def Obligations.OnlyResetLeavesTheFaultState : Prop :=
  ∀ s t, s.fault = true → step s = .next t →
    (∃ rest, s.pending = .reset :: rest ∧ t.fault = false ∧ t.faultCause = 0x00 ∧ t.ctxValid = false ∧
      t.keycnt = 0 ∧ t.ivcnt = 0 ∧ t.icnt = 0 ∧ t.ocnt = 0) ∨
    (t.fault = true ∧ t.faultCause = s.faultCause ∧ t.result = s.result)

/-- R233, R266, R267: after every command that does not fault the staging is empty, the output starts at its first byte
and is empty after an error; `FAULT`, `FAULTCAUSE` stay; `RK` and `CTX_VALID` stay but for a `LOAD_KEY` that returns OK. -/
def Obligations.CompletionConsumesStagingAndKeepsTheRest : Prop :=
  ∀ i s t, s.fault = false → exec i s = .next t → t.fault = false →
    t.keybuf = [] ∧ t.keycnt = 0 ∧ t.ivbuf = [] ∧ t.ivcnt = 0 ∧ t.ibuf = [] ∧ t.ord = 0 ∧
    t.result.toNat ≤ 4 ∧ (t.result ≠ 0x00 → t.obuf = []) ∧
    t.faultCause = s.faultCause ∧ t.maxMsgBytes = s.maxMsgBytes ∧ t.pending = s.pending ∧ t.reads = s.reads ∧
    (i ≠ .loadKey ∨ t.result ≠ 0x00 → t.rk = s.rk ∧ t.ctxValid = s.ctxValid)

/-- R243: the outcome of a write to `CMD` is decided by the checks in their fixed order. -/
def Obligations.CommandChecksRunInTheirOrder : Prop :=
  ∀ s v rest t, s.pending = .write 0 v :: rest → step s = .next t →
    (t.fault, t.faultCause, t.result) = writeOutcome v s

/-- R232: no key, IV or message content can cause a fault; only counts, the context bit and the command can. -/
def Obligations.ContentNeverDecidesAFault : Prop :=
  ∀ i s s' t t', s.fault = false → s'.fault = false → s.faultCause = s'.faultCause →
    s.ctxValid = s'.ctxValid → s.keycnt = s'.keycnt → s.ivcnt = s'.ivcnt → s.ibuf.length = s'.ibuf.length →
    exec i s = .next t → exec i s' = .next t' → t.fault = t'.fault ∧ t.faultCause = t'.faultCause

/-! ## Faults -/

/-- R194, R231, R232, R236: the fault causes and the result codes each command can end with, from states the machine can
be in: exactly the listed ones, each of them possible. -/
def Obligations.CommandsHaveExactlyTheirListedOutcomes : Prop :=
  ∀ i c,
    (c ∈ possibleCauses i ↔ ∃ s t, s.Inv ∧ s.fault = false ∧ exec i s = .next t ∧ t.fault = true ∧ t.faultCause = c) ∧
    (c ∈ possibleResults i ↔ ∃ s t, s.Inv ∧ s.fault = false ∧ exec i s = .next t ∧ t.fault = false ∧ t.result = c)

/-- R239: without a context the ten commands that need one raise NoContext, whatever else is wrong; the other two,
`LOAD_KEY` and `FLUSH`, never fault. -/
def Obligations.NoContextFaults : Prop :=
  (∀ i s, i ∈ needsContext → s.fault = false → s.ctxValid = false →
    ∃ t, exec i s = .next t ∧ FaultedWith 0x03 s t) ∧
  (∀ i s, i = .loadKey ∨ i = .flush → s.fault = false → ∃ t, exec i s = .next t ∧ t.fault = false)

/-- R240: with a context the block commands raise BadBlockLength exactly when other than 16 bytes are staged; no other
command ever raises it. -/
def Obligations.WrongBlockLengthFaults : Prop :=
  (∀ i s, i ∈ blockCommands → Ready s →
    (s.ibuf.length ≠ 16 → ∃ t, exec i s = .next t ∧ FaultedWith 0x02 s t) ∧
    (s.ibuf.length = 16 → ∃ t, exec i s = .next t ∧ t.fault = false)) ∧
  (∀ i s t, i ∉ blockCommands → s.fault = false → exec i s = .next t → t.fault = true → t.faultCause ≠ 0x02)

/-- R241, R182: with a context a chained mode returns MissingIv when no IV byte is staged and raises BadIvLength when the
count is neither 0 nor 16; no other command raises it; ECB never looks at the IV: its next state is the same whatever is
staged there. -/
def Obligations.IvCountDecidesMissingOrMalformed : Prop :=
  (∀ i s, i ∈ chainedCommands → Ready s →
    (s.ivcnt = 0 → exec i s = .next (completed 0x04 [] s)) ∧
    (s.ivcnt ≠ 0 → s.ivcnt ≠ 16 → ∃ t, exec i s = .next t ∧ FaultedWith 0x04 s t)) ∧
  (∀ i s t, i ∉ chainedCommands → s.fault = false → exec i s = .next t → t.fault = true → t.faultCause ≠ 0x04) ∧
  (∀ i s b n, i = .ecbEnc ∨ i = .ecbDec → Ready s → exec i { s with ivbuf := b, ivcnt := n } = exec i s)

/-- R95, R238: in a live engine a write of an illegal byte to `CMD` raises IllegalCommand, whatever the state. -/
def Obligations.IllegalCommandFaults : Prop :=
  ∀ s v rest, s.fault = false → illegalByte v → s.pending = .write 0 v :: rest →
    ∃ t, step s = .next t ∧ FaultedWith 0x01 { s with pending := rest } t

/-- R237: while `FAULT = 1` every write is ignored and every read returns its fixed byte and changes nothing else. -/
def Obligations.FaultStateIgnoresWritesAndFixesReads : Prop :=
  ∀ s rest off, s.fault = true →
    (∀ v, s.pending = .write off v :: rest → step s = .next { s with pending := rest }) ∧
    (s.pending = .read off :: rest →
      step s = .next { s with pending := rest, reads := s.reads ++ [faultRead s off] })

/-! ## Ports, status registers, reset -/

/-- R64, R65: a push to `KEYIN` or `IVIN`. -/
def Obligations.KeyAndIvPushesSaturate : Prop :=
  ∀ s v rest,
    (s.pending = .write 4 v :: rest →
      (s.fault = true → step s = .next { s with pending := rest }) ∧
      (s.fault = false → step s = .next { s with
        pending := rest, keybuf := if s.keycnt < 16 then s.keybuf ++ [v] else s.keybuf, keycnt := min (s.keycnt + 1) 17 })) ∧
    (s.pending = .write 5 v :: rest →
      (s.fault = true → step s = .next { s with pending := rest }) ∧
      (s.fault = false → step s = .next { s with
        pending := rest, ivbuf := if s.ivcnt < 16 then s.ivbuf ++ [v] else s.ivbuf, ivcnt := min (s.ivcnt + 1) 17 }))

/-- R66: a push to `DIN` appends the byte below capacity and raises BufferOverflow at capacity; ignored under a fault. -/
def Obligations.DataPushAppendsOrOverflows : Prop :=
  ∀ s v rest, s.pending = .write 6 v :: rest →
    (s.fault = true → step s = .next { s with pending := rest }) ∧
    (s.fault = false → s.ibuf.length ≠ s.maxMsgBytes → step s = .next { s with pending := rest, ibuf := s.ibuf ++ [v] }) ∧
    (s.fault = false → s.ibuf.length = s.maxMsgBytes →
      ∃ t, step s = .next t ∧ FaultedWith 0x05 { s with pending := rest } t)

/-- R67: a read of `DOUT` returns the next output byte and advances `ORD`, or 0x00 with no change where nothing is left or
under a fault. -/
def Obligations.DoutPopsOneByte : Prop :=
  ∀ s rest, s.pending = .read 7 :: rest →
    (∀ v, s.fault = false → s.obuf[s.ord]? = some v →
      step s = .next { s with pending := rest, reads := s.reads ++ [v], ord := s.ord + 1 }) ∧
    (s.fault = true ∨ s.ord = s.obuf.length → step s = .next { s with pending := rest, reads := s.reads ++ [0x00] })

/-- R29 to R32, R63, R221: in a live engine a read of offset 0 to 6 changes nothing in the engine and returns its byte;
a write to a read-only register changes nothing. `STATUS` is `CTX_VALID` in bit 0, `OAVAIL` in bit 1, 0 elsewhere. -/
def Obligations.StatusReadsAndReadOnlyWritesHaveNoEffect : Prop :=
  ∀ s rest, s.fault = false →
    (∀ off v, s.pending = .write off v :: rest → off = 1 ∨ off = 2 ∨ off = 3 ∨ off = 7 →
      step s = .next { s with pending := rest }) ∧
    (∀ off, s.pending = .read off :: rest → off ≠ 7 → ∃ v, step s = .next { s with pending := rest, reads := s.reads ++ [v] } ∧
      (off = 2 → v = s.result) ∧ (off = 3 → v = s.faultCause) ∧
      (off = 0 ∨ off = 4 ∨ off = 5 ∨ off = 6 → v = 0x00) ∧
      (off = 1 → v.getLsbD 0 = s.ctxValid ∧ v.getLsbD 1 = decide (s.ord < s.obuf.length) ∧
        ∀ k, 2 ≤ k → v.getLsbD k = false))

/-- R260: the reset event, from every state, the fault state included, sets the elements of the rule's block. The last
line, on the pending events, the past reads and MAX_MSG_BYTES, is about the model's own fields (log 1, log 2, log 3). -/
def Obligations.ResetEventSetsTheResetValues : Prop :=
  ∀ s rest, s.pending = .reset :: rest → ∃ t, step s = .next t ∧
    t.ctxValid = false ∧ t.fault = false ∧ t.faultCause = 0x00 ∧ t.result = 0x00 ∧
    t.keycnt = 0 ∧ t.ivcnt = 0 ∧ t.icnt = 0 ∧ t.ocnt = 0 ∧ t.ord = 0 ∧
    t.pending = rest ∧ t.reads = s.reads ∧ t.maxMsgBytes = s.maxMsgBytes

/-- R261: what the host reads at the eight offsets of a machine just reset, whatever `RK` holds. -/
def Obligations.ResetReadsAreZero : Prop :=
  ∀ off rest k, ∃ t, step { State.reset with rk := k, pending := .read off :: rest } = .next t ∧ t.reads = [0x00]

/-- R69 (a), R64 to R66: bytes pushed one after another are staged in index order; from the 17th on key and IV bytes are
counted as 17 and dropped. -/
def Obligations.PushedBytesAreStagedInOrder : Prop :=
  ∀ s d rest, s.fault = false →
    (s.keybuf = [] → s.keycnt = 0 → s.pending = d.map (.write 4 ·) ++ rest →
      Host.Core.run core d.length s = .next { s with pending := rest, keybuf := d.take 16, keycnt := min d.length 17 }) ∧
    (s.ivbuf = [] → s.ivcnt = 0 → s.pending = d.map (.write 5 ·) ++ rest →
      Host.Core.run core d.length s = .next { s with pending := rest, ivbuf := d.take 16, ivcnt := min d.length 17 }) ∧
    (s.ibuf = [] → d.length ≤ s.maxMsgBytes → s.pending = d.map (.write 6 ·) ++ rest →
      Host.Core.run core d.length s = .next { s with pending := rest, ibuf := d })

/-- R67: `OCNT` reads of `DOUT` after a command return its output in index order, each byte once, and every further read
returns 0x00 and changes nothing. -/
def Obligations.DrainReturnsTheOutputInOrder : Prop :=
  ∀ s k rest, s.fault = false → s.ord = 0 → s.pending = List.replicate (s.obuf.length + k) (.read 7) ++ rest →
    Host.Core.run core (s.obuf.length + k) s = .next { s with
      pending := rest, reads := s.reads ++ s.obuf ++ List.replicate k 0x00, ord := s.obuf.length }

/-! ## Tables and field arithmetic -/

/-- R113 (the construction), R114, R115, R116: the tables of the engine. -/
def Obligations.TablesMeetTheirConstruction : Prop :=
  (∀ a, invSbox (sbox a) = a ∧ sbox (invSbox a) = a) ∧
  (∀ a, ∃ x, (a = 0x00 ∧ x = 0x00 ∨ gfMul a x = 0x01) ∧
    sbox a = x ^^^ x.rotateLeft 1 ^^^ x.rotateLeft 2 ^^^ x.rotateLeft 3 ^^^ x.rotateLeft 4 ^^^ 0x63) ∧
  (∀ a, sbox a ≠ a ∧ sbox a ≠ ~~~ a) ∧
  (rcon 1 = 0x01 ∧ ∀ j, 1 ≤ j → j ≤ 9 → rcon (j + 1) = gfMul (rcon j) 0x02) ∧
  rcon 9 ^^^ gfMul 0x80 0x02 = 0x00

/-- R112: the laws of `gf_mul`. -/
def Obligations.FieldMultiplicationLaws : Prop :=
  (∀ a, gfMul a 0x00 = 0x00 ∧ gfMul 0x00 a = 0x00 ∧ gfMul a 0x01 = a ∧ gfMul 0x01 a = a) ∧
  (∀ a b, gfMul a b = gfMul b a) ∧
  (∀ a b c, gfMul a (b ^^^ c) = gfMul a b ^^^ gfMul a c) ∧
  (∀ a, gfMul a 0x02 = (a <<< 1) ^^^ (if a.getLsbD 7 then 0x1B else 0x00)) ∧
  (∀ a, gfMul a 0x03 = gfMul a 0x02 ^^^ a) ∧
  gfMul 0x02 0x01 = 0x02 ∧ gfMul 0x02 0x02 = 0x04 ∧ gfMul 0x02 0x80 = 0x1B ∧ gfMul 0xFF 0xFF = 0x13 ∧
  gfMul 0x57 0x83 = 0xC1 ∧ gfMul 0x57 0x13 = 0xFE ∧ gfMul 0x53 0xCA = 0x01

/-! ## KeySchedule -/

/-- R134: round key 0 is the key, the recurrences of the other ten by words, and `expand` is injective. -/
def Obligations.RoundKeysFollowTheSchedule : Prop :=
  (∀ key, (expand key)[0] = key) ∧
  (∀ (key : Block) (r : Fin 10) (j : Fin 4),
    (expand key)[r.val + 1][j.val] = (expand key)[r.val][j.val] ^^^
      (sbox (expand key)[r.val][12 + (j.val + 1) % 4] ^^^ (if j = 0 then rcon (r.val + 1) else 0x00))) ∧
  (∀ (key : Block) (r : Fin 10) (k : Fin 3) (j : Fin 4),
    (expand key)[r.val + 1][4 * (k.val + 1) + j.val] =
      (expand key)[r.val][4 * (k.val + 1) + j.val] ^^^ (expand key)[r.val + 1][4 * k.val + j.val]) ∧
  (∀ key key', expand key = expand key' → key = key')

/-- R135: `LOAD_KEY` with 16 staged bytes installs the expansion of exactly those bytes; with any other count it returns
InvalidKeySize and leaves the context as it was. -/
def Obligations.LoadKeyInstallsTheExpandedKey : Prop :=
  ∀ s, s.fault = false →
    (∀ key : Block, s.keycnt = 16 → s.keybuf = key.toList →
      exec .loadKey s = .next { completed 0x00 [] s with rk := expand key, ctxValid := true }) ∧
    (s.keycnt ≠ 16 → exec .loadKey s = .next (completed 0x01 [] s))

/-! ## BlockTransform -/

/-- R150 to R157: each round step, entry by entry in the matrix view or by its flat permutation. -/
def Obligations.RoundStepsActByEntries : Prop :=
  (∀ (s k : Block) (i : Fin 16), (addRoundKey s k)[i.val] = s[i.val] ^^^ k[i.val]) ∧
  (∀ (s : Block) (i : Fin 16), (subBytes s)[i.val] = sbox s[i.val] ∧ (invSubBytes s)[i.val] = invSbox s[i.val]) ∧
  (∀ s : Block, shiftRows s = #v[s[0], s[5], s[10], s[15], s[4], s[9], s[14], s[3],
    s[8], s[13], s[2], s[7], s[12], s[1], s[6], s[11]]) ∧
  (∀ s : Block, invShiftRows s = #v[s[0], s[13], s[10], s[7], s[4], s[1], s[14], s[11],
    s[8], s[5], s[2], s[15], s[12], s[9], s[6], s[3]]) ∧
  (∀ (s : Block) (c : Fin 4), ∀ a0 a1 a2 a3 : Byte,
    a0 = s[4 * c.val] → a1 = s[4 * c.val + 1] → a2 = s[4 * c.val + 2] → a3 = s[4 * c.val + 3] →
    (mixColumns s)[4 * c.val] = gfMul 2 a0 ^^^ gfMul 3 a1 ^^^ a2 ^^^ a3 ∧
    (mixColumns s)[4 * c.val + 1] = a0 ^^^ gfMul 2 a1 ^^^ gfMul 3 a2 ^^^ a3 ∧
    (mixColumns s)[4 * c.val + 2] = a0 ^^^ a1 ^^^ gfMul 2 a2 ^^^ gfMul 3 a3 ∧
    (mixColumns s)[4 * c.val + 3] = gfMul 3 a0 ^^^ a1 ^^^ a2 ^^^ gfMul 2 a3 ∧
    (invMixColumns s)[4 * c.val] = gfMul 0xE a0 ^^^ gfMul 0xB a1 ^^^ gfMul 0xD a2 ^^^ gfMul 0x9 a3 ∧
    (invMixColumns s)[4 * c.val + 1] = gfMul 0x9 a0 ^^^ gfMul 0xE a1 ^^^ gfMul 0xB a2 ^^^ gfMul 0xD a3 ∧
    (invMixColumns s)[4 * c.val + 2] = gfMul 0xD a0 ^^^ gfMul 0x9 a1 ^^^ gfMul 0xE a2 ^^^ gfMul 0xB a3 ∧
    (invMixColumns s)[4 * c.val + 3] = gfMul 0xB a0 ^^^ gfMul 0xD a1 ^^^ gfMul 0x9 a2 ^^^ gfMul 0xE a3)

/-- R150, R154, R155, R157: each inverse step undoes its forward step and is undone by it. -/
def Obligations.InverseStepsUndoForwardSteps : Prop :=
  (∀ s k, addRoundKey (addRoundKey s k) k = s) ∧
  (∀ s, invShiftRows (shiftRows s) = s ∧ shiftRows (invShiftRows s) = s) ∧
  (∀ s, invSubBytes (subBytes s) = s ∧ subBytes (invSubBytes s) = s) ∧
  (∀ s, invMixColumns (mixColumns s) = s ∧ mixColumns (invMixColumns s) = s)

/-- R158, R161: both ciphers as their steps, round by round. -/
def Obligations.CiphersAreTheirTenRounds : Prop :=
  ∀ (k : RoundKeys) (b : Block),
    (let enc := fun s r => addRoundKey (mixColumns (shiftRows (subBytes s))) r
     encryptBlock k b = addRoundKey (shiftRows (subBytes
       (enc (enc (enc (enc (enc (enc (enc (enc (enc (addRoundKey b k[0]) k[1]) k[2]) k[3]) k[4]) k[5]) k[6]) k[7]) k[8])
         k[9]))) k[10]) ∧
    (let dec := fun s r => invMixColumns (addRoundKey (invSubBytes (invShiftRows s)) r)
     decryptBlock k b = addRoundKey (invSubBytes (invShiftRows
       (dec (dec (dec (dec (dec (dec (dec (dec (dec (addRoundKey b k[10]) k[9]) k[8]) k[7]) k[6]) k[5]) k[4]) k[3]) k[2])
         k[1]))) k[0])

/-- R163: for every ExpandedKey the inverse cipher undoes the forward cipher and the other way round, and equal blocks of
an ECB message give equal ciphertext blocks. -/
def Obligations.DecryptInvertsEncrypt : Prop :=
  (∀ k b, decryptBlock k (encryptBlock k b) = b) ∧
  (∀ k c, encryptBlock k (decryptBlock k c) = c) ∧
  (∀ k d i j, i < d.length / 16 → j < d.length / 16 → blockAt d i = blockAt d j →
    blockAt (ecbEncrypt k (blocksOf d)) i = blockAt (ecbEncrypt k (blocksOf d)) j)

/-- R164, R165: with a context and 16 staged bytes the block commands return the transformed block and nothing else
changes but what the completion consumes. -/
def Obligations.BlockCommandsReturnTheBlock : Prop :=
  ∀ s (b : Block), Ready s → s.ibuf = b.toList →
    exec .encBlock s = .next (completed 0x00 (encryptBlock s.rk b).toList s) ∧
    exec .decBlock s = .next (completed 0x00 (decryptBlock s.rk b).toList s)

/-! ## PaddingCodec -/

/-- R213, R211, R212: the padding laws and what removal rejects. -/
def Obligations.PaddingLaws : Prop :=
  (∀ d, removePadding (addPadding d) = .ok d) ∧
  (∀ d, addPadding d = padded d) ∧
  (∀ d plain, removePadding d = .ok plain ↔ IsPaddingOf plain d) ∧
  (∀ d, (¬ ∃ plain, IsPaddingOf plain d) → removePadding d = .error .invalidPadding) ∧
  (∀ d plain, d.length % 16 = 0 → removePadding d = .ok plain → addPadding plain = d)

/-! ## ModeDriver -/

/-- R183: `ECB_ENC` on every message, `C_i = E(P_i)` over the padded message. -/
def Obligations.EcbEncEncryptsEveryBlock : Prop :=
  ∀ s, Ready s → ∃ out, exec .ecbEnc s = .next (completed 0x00 out s) ∧
    out.length = 16 * (s.ibuf.length / 16 + 1) ∧
    ∀ i, i < s.ibuf.length / 16 + 1 → blockAt out i = encryptBlock s.rk (blockAt (padded s.ibuf) i)

/-- R186: `CBC_ENC`, `C_i = E(P_i XOR C_{i-1})`, `C_{-1} = IV`. -/
def Obligations.CbcEncChainsCiphertext : Prop :=
  ∀ s iv, ReadyIv iv s → ∃ out, exec .cbcEnc s = .next (completed 0x00 out s) ∧
    out.length = 16 * (s.ibuf.length / 16 + 1) ∧
    ∀ i, i < s.ibuf.length / 16 + 1 → blockAt out i =
      encryptBlock s.rk (xorBlock (blockAt (padded s.ibuf) i) (if i = 0 then iv else blockAt out (i - 1)))

/-- R184: `ECB_DEC`: InvalidBlockSize for a partial block, else `P_i = D(C_i)` and the padding removed. -/
def Obligations.EcbDecDecryptsAndUnpads : Prop :=
  ∀ s, Ready s →
    (s.ibuf.length % 16 ≠ 0 → exec .ecbDec s = .next (completed 0x02 [] s)) ∧
    (s.ibuf.length % 16 = 0 → ∃ work, work.length = s.ibuf.length ∧
      (∀ i, i < s.ibuf.length / 16 → blockAt work i = decryptBlock s.rk (blockAt s.ibuf i)) ∧
      UnpadsTo .ecbDec s work)

/-- R187: `CBC_DEC`: as `ECB_DEC`, with `P_i = D(C_i) XOR C_{i-1}`, `C_{-1} = IV`. -/
def Obligations.CbcDecDecryptsAndUnpads : Prop :=
  ∀ s iv, ReadyIv iv s →
    (s.ibuf.length % 16 ≠ 0 → exec .cbcDec s = .next (completed 0x02 [] s)) ∧
    (s.ibuf.length % 16 = 0 → ∃ work, work.length = s.ibuf.length ∧
      (∀ i, i < s.ibuf.length / 16 → blockAt work i =
        xorBlock (decryptBlock s.rk (blockAt s.ibuf i)) (if i = 0 then iv else blockAt s.ibuf (i - 1))) ∧
      UnpadsTo .cbcDec s work)

/-- R188, R185: `CFB_ENC` byte by byte: each message byte XOR `E` of the register, which is the IV, then the previous
ciphertext block; no padding. -/
def Obligations.CfbEncFeedsBackCiphertext : Prop :=
  ∀ s iv, ReadyIv iv s → ∃ out, exec .cfbEnc s = .next (completed 0x00 out s) ∧
    out.length = s.ibuf.length ∧
    ∀ j, j < s.ibuf.length → out.getD j 0 = s.ibuf.getD j 0 ^^^
      (encryptBlock s.rk (if j < 16 then iv else blockAt out (j / 16 - 1)))[j % 16]'(by omega)

/-- R189, R185: `CFB_DEC` byte by byte: as encryption, the register loaded from the ciphertext input. -/
def Obligations.CfbDecFeedsBackItsInput : Prop :=
  ∀ s iv, ReadyIv iv s → ∃ out, exec .cfbDec s = .next (completed 0x00 out s) ∧
    out.length = s.ibuf.length ∧
    ∀ j, j < s.ibuf.length → out.getD j 0 = s.ibuf.getD j 0 ^^^
      (encryptBlock s.rk (if j < 16 then iv else blockAt s.ibuf (j / 16 - 1)))[j % 16]'(by omega)

/-- R190, R191, R185: `CTR_ENC` and `CTR_DEC` byte by byte: each message byte XOR `E` of its counter block. -/
def Obligations.CtrXorsTheCounterKeystream : Prop :=
  ∀ i s iv, i = .ctrEnc ∨ i = .ctrDec → ReadyIv iv s → ∃ out, exec i s = .next (completed 0x00 out s) ∧
    out.length = s.ibuf.length ∧
    ∀ j, j < s.ibuf.length → out.getD j 0 = s.ibuf.getD j 0 ^^^
      (encryptBlock s.rk (ctrBlock iv (j / 16)))[j % 16]'(by omega)

/-- R192: the counter block: `be128` as a sum, the block's value, inverse maps, the byte-wise increment with carry, and
the spec's four examples. -/
def Obligations.CounterIsBigEndianModulo128 : Prop :=
  (∀ x : Block, be128 x = ∑ j : Fin 16, x[j.val].toNat * 256 ^ (15 - j.val)) ∧
  (∀ iv i, be128 (ctrBlock iv i) = (be128 iv + i) % 2 ^ 128) ∧
  (∀ x, bytes128 (be128 x) = x) ∧ (∀ v, v < 2 ^ 128 → be128 (bytes128 v) = v) ∧
  (∀ iv, ctrBlock iv 0 = iv) ∧
  (∀ iv i, (ctrBlock iv (i + 1)).toList = (incrementLow (ctrBlock iv i).toList.reverse).reverse) ∧
  ctrBlock #v[0, 0, 0, 0, 0, 0, 0, 0, 0, 0, 0, 0, 0, 0, 0, 0xFF] 1 = #v[0, 0, 0, 0, 0, 0, 0, 0, 0, 0, 0, 0, 0, 0, 1, 0] ∧
  ctrBlock #v[0, 0, 0, 0, 0, 0, 0, 0, 0xFF, 0xFF, 0xFF, 0xFF, 0xFF, 0xFF, 0xFF, 0xFF] 1 =
    #v[0, 0, 0, 0, 0, 0, 0, 1, 0, 0, 0, 0, 0, 0, 0, 0] ∧
  ctrBlock (Vector.replicate 16 0xFF) 1 = Vector.replicate 16 0x00 ∧
  ctrBlock (Vector.replicate 16 0xFF) 2 = #v[0, 0, 0, 0, 0, 0, 0, 0, 0, 0, 0, 0, 0, 0, 0, 1]

/-- R193: for every mode, message and IV: encrypting returns OK, and decrypting the output, staged under the same context
with the same IV, returns OK and the message. ECB needs no IV. -/
def Obligations.ModesRoundTrip : Prop :=
  ∀ p ∈ modePairs, ∀ s iv, Ready s → p.1 = .ecbEnc ∨ ReadyIv iv s →
    ∃ t, exec p.1 s = .next t ∧ t.result = 0x00 ∧
      ∀ u, Ready u → u.rk = s.rk → u.ibuf = t.obuf → p.2 = .ecbDec ∨ ReadyIv iv u →
        exec p.2 u = .next (completed 0x00 s.ibuf u)

/-- R195: the output length of every mode command, and what an empty message gives. -/
def Obligations.ModeOutputLengths : Prop :=
  (∀ i s t, Ready s → exec i s = .next t → t.fault = false →
    (t.result ≠ 0x00 → t.ocnt = 0) ∧
    (t.result = 0x00 →
      (i = .ecbEnc ∨ i = .cbcEnc → t.ocnt = 16 * (s.icnt / 16 + 1)) ∧
      (i ∈ unpaddingCommands → ∃ l, (decryptedWork i s).getLast? = some l ∧ 1 ≤ l.toNat ∧ l.toNat ≤ 16 ∧
        t.ocnt + l.toNat = s.icnt) ∧
      (i = .cfbEnc ∨ i = .cfbDec ∨ i = .ctrEnc ∨ i = .ctrDec → t.ocnt = s.icnt))) ∧
  (∀ i s, Ready s → s.ibuf = [] → i = .ecbEnc ∨ i = .ecbDec ∨ (i ∈ chainedCommands ∧ s.ivcnt = 16) →
    ∃ t, exec i s = .next t ∧ t.fault = false ∧
      (i = .ecbEnc ∨ i = .cbcEnc → t.result = 0x00 ∧ t.ocnt = 16) ∧
      (i ∈ unpaddingCommands → t.result = 0x03 ∧ t.ocnt = 0) ∧
      (i = .cfbEnc ∨ i = .cfbDec ∨ i = .ctrEnc ∨ i = .ctrDec → t.result = 0x00 ∧ t.ocnt = 0))

/-! ## Housekeeping -/

/-- R220: `FLUSH` empties staging and output, writes OK, and needs no context; under a fault its byte is ignored. -/
def Obligations.FlushEmptiesTheBuffers : Prop :=
  (∀ s, s.fault = false → exec .flush s = .next (completed 0x00 [] s)) ∧
  ∀ s rest, s.fault = true → s.pending = .write 0 0x06 :: rest → step s = .next { s with pending := rest }
end

