-- ==== Sys2Proof/Laws/Blocks.lean ====
section
/-! SUPPORT. Byte strings, blocks and their splitting (R9, R181, R185): the small facts the mode proofs cite. -/

namespace Sys2Proof.Machine

/-! ### Blocks as byte strings -/

@[simp] theorem toBlock_get (d : List Byte) (i : Nat) (h : i < 16) : (toBlock d)[i] = d.getD i 0 := by
  simp [toBlock]

/-- Two blocks are equal when their bytes are. -/
theorem block_ext {a b : Block} (h : ∀ i (hi : i < 16), a[i] = b[i]) : a = b := Vector.ext h

/-- The block of a block's bytes, whatever follows them. -/
theorem toBlock_toList_append (b : Block) (d : List Byte) : toBlock (b.toList ++ d) = b :=
  block_ext fun i h => by
    rw [toBlock_get, List.getD_append _ _ _ _ (by simpa using h), List.getD_eq_getElem _ _ (by simpa using h)]
    simp

@[simp] theorem toBlock_toList (b : Block) : toBlock b.toList = b := by
  simpa using toBlock_toList_append b []

/-- The first 16 bytes of a longer string are the bytes of its block. -/
theorem toBlock_toList_eq_take {d : List Byte} (h : 16 ≤ d.length) : (toBlock d).toList = d.take 16 := by
  apply List.ext_getElem
  · simp; omega
  · intro i h1 h2
    have hi : i < d.length := by simp at h2; omega
    simp [List.getElem?_eq_getElem hi]

theorem toBlock_take (d : List Byte) : toBlock (d.take 16) = toBlock d :=
  block_ext fun i h => by simp [h]

/-- XOR of blocks, byte by byte (R9). -/
@[simp] theorem xorBlock_get (a b : Block) (i : Nat) (h : i < 16) : (xorBlock a b)[i] = a[i] ^^^ b[i] := by
  simp [xorBlock]

theorem xorBlock_cancel (a b : Block) : xorBlock (xorBlock a b) b = a :=
  block_ext fun i h => by simp

/-- A byte string XOR a keystream block is as long as the string, up to 16 bytes (R185). -/
@[simp] theorem xorKeystream_length (x : List Byte) (ks : Block) : (xorKeystream x ks).length = min x.length 16 := by
  simp [xorKeystream]

theorem xorKeystream_get (x : List Byte) (ks : Block) (i : Nat) (h : i < (xorKeystream x ks).length) :
    (xorKeystream x ks)[i] = x[i]'(by simp at h; omega) ^^^ ks[i]'(by simp at h; omega) := by
  simp [xorKeystream]

/-- XOR with the same keystream twice gives the string back (R188 to R191). -/
theorem xorKeystream_cancel {x : List Byte} (ks : Block) (h : x.length ≤ 16) :
    xorKeystream (xorKeystream x ks) ks = x := by
  apply List.ext_getElem
  · simp; omega
  · intro i h1 h2
    rw [xorKeystream_get, xorKeystream_get, BitVec.xor_assoc, BitVec.xor_self, BitVec.xor_zero]

/-! ### The matrix view (R11) -/

/-- Row `r`, column `c` of a block made from its matrix is that matrix entry. -/
@[simp] theorem cell_ofCells (f : Fin 4 → Fin 4 → Byte) (r c : Fin 4) : cell (ofCells f) r c = f r c := by
  simp only [cell, ofCells, Vector.getElem_ofFn]
  congr 1
  · apply Fin.ext; simp
  · apply Fin.ext; simp; omega

/-- A block is made of its matrix entries. -/
@[simp] theorem ofCells_cell (s : Block) : ofCells (cell s) = s :=
  block_ext fun i hi => by simp [cell, ofCells, Nat.mod_add_div]

/-- Two blocks are equal when their matrix entries are. -/
theorem block_ext_cells {a b : Block} (h : ∀ r c, cell a r c = cell b r c) : a = b := by
  rw [← ofCells_cell a, ← ofCells_cell b, show cell a = cell b from funext fun r => funext fun c => h r c]

/-- Byte `i` of a block made from its matrix is the entry at row `i % 4`, column `i / 4`. -/
theorem ofCells_get (f : Fin 4 → Fin 4 → Byte) (i : Nat) (h : i < 16) :
    (ofCells f)[i] = f ⟨i % 4, by omega⟩ ⟨i / 4, by omega⟩ := by
  simp [ofCells]

/-! ### Splitting into blocks -/

@[simp] theorem blocksOf_nil : blocksOf [] = [] := rfl

/-- A non-empty string is its first 16 bytes, then the blocks of the rest (R181). -/
theorem blocksOf_cons {d : List Byte} (h : d ≠ []) : blocksOf d = d.take 16 :: blocksOf (d.drop 16) := by
  have hl : 0 < d.length := List.length_pos_iff.2 h
  have hn : nblocks d.length = nblocks (d.length - 16) + 1 := by unfold nblocks; omega
  simp [blocksOf, hn, takeBlocks]

/-- The blocks of a whole block followed by a string. -/
theorem blocksOf_block_append (b : Block) (d : List Byte) : blocksOf (b.toList ++ d) = b.toList :: blocksOf d := by
  rw [blocksOf_cons (by intro h; have := congrArg List.length h; simp at this)]
  rw [List.take_left' (by simp), List.drop_left' (by simp)]

@[simp] theorem blocksOf_length (d : List Byte) : (blocksOf d).length = nblocks d.length := by
  have : ∀ k d, (takeBlocks k d).length = k := by
    intro k
    induction k with
    | zero => intro d; rfl
    | succ k ih => intro d; simp [takeBlocks, ih]
  exact this _ _

/-- Induction over the blocks of a byte string. -/
theorem blocks_induction {P : List Byte → Prop} (nil : P []) (block : ∀ d, d ≠ [] → P (d.drop 16) → P d) :
    ∀ d, P d := by
  have : ∀ n d, d.length ≤ n → P d := by
    intro n
    induction n with
    | zero => intro d h; rw [List.length_eq_zero_iff.1 (Nat.le_zero.1 h)]; exact nil
    | succ n ih =>
      intro d h
      by_cases hd : d = []
      · rw [hd]; exact nil
      · exact block d hd (ih _ (by simp; omega))
  exact fun d => this d.length d le_rfl

/-! ### Output lengths of the mode recursions (R195) -/

theorem ecbEncrypt_length (rk : RoundKeys) (ps : List (List Byte)) : (ecbEncrypt rk ps).length = 16 * ps.length := by
  induction ps with
  | nil => rfl
  | cons p ps ih => simp [ecbEncrypt, ih]; omega

theorem ecbDecrypt_length (rk : RoundKeys) (cs : List (List Byte)) : (ecbDecrypt rk cs).length = 16 * cs.length := by
  induction cs with
  | nil => rfl
  | cons c cs ih => simp [ecbDecrypt, ih]; omega

theorem cbcEncrypt_length (rk : RoundKeys) (chain : Block) (ps : List (List Byte)) :
    (cbcEncrypt rk chain ps).length = 16 * ps.length := by
  induction ps generalizing chain with
  | nil => rfl
  | cons p ps ih => simp [cbcEncrypt, ih]; omega

theorem cbcDecrypt_length (rk : RoundKeys) (chain : Block) (cs : List (List Byte)) :
    (cbcDecrypt rk chain cs).length = 16 * cs.length := by
  induction cs generalizing chain with
  | nil => rfl
  | cons c cs ih => simp [cbcDecrypt, ih]; omega

theorem cfbEncrypt_length (rk : RoundKeys) (chain : Block) (d : List Byte) :
    (cfbEncrypt rk chain (blocksOf d)).length = d.length := by
  induction d using blocks_induction generalizing chain with
  | nil => rfl
  | block d hd ih => rw [blocksOf_cons hd]; simp [cfbEncrypt, ih]; omega

theorem cfbDecrypt_length (rk : RoundKeys) (chain : Block) (d : List Byte) :
    (cfbDecrypt rk chain (blocksOf d)).length = d.length := by
  induction d using blocks_induction generalizing chain with
  | nil => rfl
  | block d hd ih => rw [blocksOf_cons hd]; simp [cfbDecrypt, ih]; omega

theorem ctrCrypt_length (rk : RoundKeys) (iv : Block) (i : Nat) (d : List Byte) :
    (ctrCrypt rk iv i (blocksOf d)).length = d.length := by
  induction d using blocks_induction generalizing i with
  | nil => rfl
  | block d hd ih => rw [blocksOf_cons hd]; simp [ctrCrypt, ih]; omega

/-! ### Padding lengths (R211, R212) -/

theorem addPadding_length (d : List Byte) : (addPadding d).length = 16 * (d.length / 16 + 1) := by
  simp only [addPadding, padLength, List.length_append, List.length_replicate]
  split <;> omega

/-- What removal takes away: 1 to 16 bytes (R212). -/
theorem removePadding_length {d plain : List Byte} (h : removePadding d = .ok plain) :
    ∃ l, 1 ≤ l ∧ l ≤ 16 ∧ plain.length + l = d.length := by
  unfold removePadding at h
  split at h
  · cases h
  · rename_i l _
    split_ifs at h with h0 h16 hlen hall
    cases h
    exact ⟨l.toNat, by omega, by omega, by simp; omega⟩

theorem nblocks_whole {n : Nat} (h : n % 16 = 0) : 16 * nblocks n = n := by unfold nblocks; omega

end Sys2Proof.Machine
end

