-- ==== Sys2Proof/Laws/Galois.lean ====
section
/-! SUPPORT. The loop of `gf_mul` (R111) by its steps: the doubling is linear, and the accumulator can be pulled out. -/

namespace Sys2Proof.Machine

/-- Doubling distributes over the field's addition (R110, R111). -/
theorem gfDouble_xor (a b : Byte) : gfDouble (a ^^^ b) = gfDouble a ^^^ gfDouble b := by
  unfold gfDouble
  rw [BitVec.getLsbD_xor, BitVec.shiftLeft_xor_distrib]
  generalize a <<< 1 = x
  generalize b <<< 1 = y
  cases a.getLsbD 7 <;> cases b.getLsbD 7 <;> simp
  · ac_rfl
  · ac_rfl
  · rw [show x ^^^ 27#8 ^^^ (y ^^^ 27#8) = (27#8 ^^^ 27#8) ^^^ (x ^^^ y) by ac_rfl]
    simp

/-- The accumulator only adds to the result. -/
theorem gfLoop_acc (n : Nat) (a b r : Byte) : gfLoop n a b r = r ^^^ gfLoop n a b 0 := by
  induction n generalizing a b r with
  | zero => simp [gfLoop]
  | succ n ih =>
    simp only [gfLoop]
    rw [ih, ih _ _ (if b.getLsbD 0 = true then 0 ^^^ a else 0)]
    cases b.getLsbD 0 <;> simp [BitVec.xor_assoc]

/-- A byte is the sum of its bits. -/
theorem byte_eq_sum_of_bits (a : Byte) :
    a = (a &&& 1) ^^^ (a &&& 2) ^^^ (a &&& 4) ^^^ (a &&& 8) ^^^ (a &&& 16) ^^^ (a &&& 32) ^^^ (a &&& 64) ^^^
      (a &&& 128) := by
  revert a
  decide +kernel

end Sys2Proof.Machine
end

