-- ==== Sys2Proof/Laws/State.lean ====
section
/-! SUPPORT. One lemma per field per update of the state: what each shared operation leaves in it. -/

namespace Sys2Proof.Machine

@[simp] theorem icnt_eq_length (s : State) : s.icnt = s.ibuf.length := rfl
@[simp] theorem ocnt_eq_length (s : State) : s.ocnt = s.obuf.length := rfl

/-! ### raiseFault -/

@[simp] theorem raiseFault_keybuf (c : FaultCause) (s : State) : (raiseFault c s).keybuf = Config.freeKeybuf s.freeCount := rfl
@[simp] theorem raiseFault_keycnt (c : FaultCause) (s : State) : (raiseFault c s).keycnt = Config.freeKeycnt s.freeCount := rfl
@[simp] theorem raiseFault_ivbuf (c : FaultCause) (s : State) : (raiseFault c s).ivbuf = Config.freeIvbuf s.freeCount := rfl
@[simp] theorem raiseFault_ivcnt (c : FaultCause) (s : State) : (raiseFault c s).ivcnt = Config.freeIvcnt s.freeCount := rfl
@[simp] theorem raiseFault_ibuf (c : FaultCause) (s : State) : (raiseFault c s).ibuf = Config.freeIbuf s.freeCount := rfl
@[simp] theorem raiseFault_obuf (c : FaultCause) (s : State) : (raiseFault c s).obuf = Config.freeObuf s.freeCount := rfl
@[simp] theorem raiseFault_ord (c : FaultCause) (s : State) : (raiseFault c s).ord = Config.freeOrd s.freeCount := rfl
@[simp] theorem raiseFault_rk (c : FaultCause) (s : State) : (raiseFault c s).rk = Config.freeRk s.freeCount := rfl
@[simp] theorem raiseFault_ctxValid (c : FaultCause) (s : State) : (raiseFault c s).ctxValid = Config.freeCtxValid s.freeCount := rfl
@[simp] theorem raiseFault_result (c : FaultCause) (s : State) : (raiseFault c s).result = s.result := rfl
@[simp] theorem raiseFault_fault (c : FaultCause) (s : State) : (raiseFault c s).fault = true := rfl
@[simp] theorem raiseFault_faultCause (c : FaultCause) (s : State) : (raiseFault c s).faultCause = causeByte c := rfl
@[simp] theorem raiseFault_maxMsgBytes (c : FaultCause) (s : State) : (raiseFault c s).maxMsgBytes = s.maxMsgBytes := rfl
@[simp] theorem raiseFault_pending (c : FaultCause) (s : State) : (raiseFault c s).pending = s.pending := rfl
@[simp] theorem raiseFault_reads (c : FaultCause) (s : State) : (raiseFault c s).reads = s.reads := rfl
@[simp] theorem raiseFault_freeCount (c : FaultCause) (s : State) : (raiseFault c s).freeCount = s.freeCount + 1 := rfl

/-! ### resetEvent -/

@[simp] theorem resetEvent_keybuf (s : State) : (resetEvent s).keybuf = [] := rfl
@[simp] theorem resetEvent_keycnt (s : State) : (resetEvent s).keycnt = 0 := rfl
@[simp] theorem resetEvent_ivbuf (s : State) : (resetEvent s).ivbuf = [] := rfl
@[simp] theorem resetEvent_ivcnt (s : State) : (resetEvent s).ivcnt = 0 := rfl
@[simp] theorem resetEvent_ibuf (s : State) : (resetEvent s).ibuf = [] := rfl
@[simp] theorem resetEvent_obuf (s : State) : (resetEvent s).obuf = [] := rfl
@[simp] theorem resetEvent_ord (s : State) : (resetEvent s).ord = 0 := rfl
@[simp] theorem resetEvent_rk (s : State) : (resetEvent s).rk = Config.freeRk s.freeCount := rfl
@[simp] theorem resetEvent_ctxValid (s : State) : (resetEvent s).ctxValid = false := rfl
@[simp] theorem resetEvent_result (s : State) : (resetEvent s).result = 0x00 := rfl
@[simp] theorem resetEvent_fault (s : State) : (resetEvent s).fault = false := rfl
@[simp] theorem resetEvent_faultCause (s : State) : (resetEvent s).faultCause = 0x00 := rfl
@[simp] theorem resetEvent_maxMsgBytes (s : State) : (resetEvent s).maxMsgBytes = s.maxMsgBytes := rfl
@[simp] theorem resetEvent_pending (s : State) : (resetEvent s).pending = s.pending := rfl
@[simp] theorem resetEvent_reads (s : State) : (resetEvent s).reads = s.reads := rfl
@[simp] theorem resetEvent_freeCount (s : State) : (resetEvent s).freeCount = s.freeCount + 1 := rfl

/-! ### complete -/

@[simp] theorem complete_keybuf (r : Reply) (s : State) : (complete r s).keybuf = [] := rfl
@[simp] theorem complete_keycnt (r : Reply) (s : State) : (complete r s).keycnt = 0 := rfl
@[simp] theorem complete_ivbuf (r : Reply) (s : State) : (complete r s).ivbuf = [] := rfl
@[simp] theorem complete_ivcnt (r : Reply) (s : State) : (complete r s).ivcnt = 0 := rfl
@[simp] theorem complete_ibuf (r : Reply) (s : State) : (complete r s).ibuf = [] := rfl
@[simp] theorem complete_obuf (r : Reply) (s : State) : (complete r s).obuf = replyBytes r := rfl
@[simp] theorem complete_ord (r : Reply) (s : State) : (complete r s).ord = 0 := rfl
@[simp] theorem complete_rk (r : Reply) (s : State) : (complete r s).rk = s.rk := rfl
@[simp] theorem complete_ctxValid (r : Reply) (s : State) : (complete r s).ctxValid = s.ctxValid := rfl
@[simp] theorem complete_result (r : Reply) (s : State) : (complete r s).result = replyCode r := rfl
@[simp] theorem complete_fault (r : Reply) (s : State) : (complete r s).fault = s.fault := rfl
@[simp] theorem complete_faultCause (r : Reply) (s : State) : (complete r s).faultCause = s.faultCause := rfl
@[simp] theorem complete_maxMsgBytes (r : Reply) (s : State) : (complete r s).maxMsgBytes = s.maxMsgBytes := rfl
@[simp] theorem complete_pending (r : Reply) (s : State) : (complete r s).pending = s.pending := rfl
@[simp] theorem complete_reads (r : Reply) (s : State) : (complete r s).reads = s.reads := rfl
@[simp] theorem complete_freeCount (r : Reply) (s : State) : (complete r s).freeCount = s.freeCount := rfl

/-! ### installContext -/

@[simp] theorem installContext_keybuf (k : RoundKeys) (s : State) : (installContext k s).keybuf = s.keybuf := rfl
@[simp] theorem installContext_keycnt (k : RoundKeys) (s : State) : (installContext k s).keycnt = s.keycnt := rfl
@[simp] theorem installContext_ivbuf (k : RoundKeys) (s : State) : (installContext k s).ivbuf = s.ivbuf := rfl
@[simp] theorem installContext_ivcnt (k : RoundKeys) (s : State) : (installContext k s).ivcnt = s.ivcnt := rfl
@[simp] theorem installContext_ibuf (k : RoundKeys) (s : State) : (installContext k s).ibuf = s.ibuf := rfl
@[simp] theorem installContext_obuf (k : RoundKeys) (s : State) : (installContext k s).obuf = s.obuf := rfl
@[simp] theorem installContext_ord (k : RoundKeys) (s : State) : (installContext k s).ord = s.ord := rfl
@[simp] theorem installContext_rk (k : RoundKeys) (s : State) : (installContext k s).rk = k := rfl
@[simp] theorem installContext_ctxValid (k : RoundKeys) (s : State) : (installContext k s).ctxValid = true := rfl
@[simp] theorem installContext_result (k : RoundKeys) (s : State) : (installContext k s).result = s.result := rfl
@[simp] theorem installContext_fault (k : RoundKeys) (s : State) : (installContext k s).fault = s.fault := rfl
@[simp] theorem installContext_faultCause (k : RoundKeys) (s : State) : (installContext k s).faultCause = s.faultCause := rfl
@[simp] theorem installContext_maxMsgBytes (k : RoundKeys) (s : State) : (installContext k s).maxMsgBytes = s.maxMsgBytes := rfl
@[simp] theorem installContext_pending (k : RoundKeys) (s : State) : (installContext k s).pending = s.pending := rfl
@[simp] theorem installContext_reads (k : RoundKeys) (s : State) : (installContext k s).reads = s.reads := rfl
@[simp] theorem installContext_freeCount (k : RoundKeys) (s : State) : (installContext k s).freeCount = s.freeCount := rfl

/-! ### pushKey -/

@[simp] theorem pushKey_keybuf (v : Byte) (s : State) : (pushKey v s).keybuf = storeByte s.keycnt s.keybuf v := rfl
@[simp] theorem pushKey_keycnt (v : Byte) (s : State) : (pushKey v s).keycnt = bumpCount s.keycnt := rfl
@[simp] theorem pushKey_ivbuf (v : Byte) (s : State) : (pushKey v s).ivbuf = s.ivbuf := rfl
@[simp] theorem pushKey_ivcnt (v : Byte) (s : State) : (pushKey v s).ivcnt = s.ivcnt := rfl
@[simp] theorem pushKey_ibuf (v : Byte) (s : State) : (pushKey v s).ibuf = s.ibuf := rfl
@[simp] theorem pushKey_obuf (v : Byte) (s : State) : (pushKey v s).obuf = s.obuf := rfl
@[simp] theorem pushKey_ord (v : Byte) (s : State) : (pushKey v s).ord = s.ord := rfl
@[simp] theorem pushKey_rk (v : Byte) (s : State) : (pushKey v s).rk = s.rk := rfl
@[simp] theorem pushKey_ctxValid (v : Byte) (s : State) : (pushKey v s).ctxValid = s.ctxValid := rfl
@[simp] theorem pushKey_result (v : Byte) (s : State) : (pushKey v s).result = s.result := rfl
@[simp] theorem pushKey_fault (v : Byte) (s : State) : (pushKey v s).fault = s.fault := rfl
@[simp] theorem pushKey_faultCause (v : Byte) (s : State) : (pushKey v s).faultCause = s.faultCause := rfl
@[simp] theorem pushKey_maxMsgBytes (v : Byte) (s : State) : (pushKey v s).maxMsgBytes = s.maxMsgBytes := rfl
@[simp] theorem pushKey_pending (v : Byte) (s : State) : (pushKey v s).pending = s.pending := rfl
@[simp] theorem pushKey_reads (v : Byte) (s : State) : (pushKey v s).reads = s.reads := rfl
@[simp] theorem pushKey_freeCount (v : Byte) (s : State) : (pushKey v s).freeCount = s.freeCount := rfl

/-! ### pushIv -/

@[simp] theorem pushIv_keybuf (v : Byte) (s : State) : (pushIv v s).keybuf = s.keybuf := rfl
@[simp] theorem pushIv_keycnt (v : Byte) (s : State) : (pushIv v s).keycnt = s.keycnt := rfl
@[simp] theorem pushIv_ivbuf (v : Byte) (s : State) : (pushIv v s).ivbuf = storeByte s.ivcnt s.ivbuf v := rfl
@[simp] theorem pushIv_ivcnt (v : Byte) (s : State) : (pushIv v s).ivcnt = bumpCount s.ivcnt := rfl
@[simp] theorem pushIv_ibuf (v : Byte) (s : State) : (pushIv v s).ibuf = s.ibuf := rfl
@[simp] theorem pushIv_obuf (v : Byte) (s : State) : (pushIv v s).obuf = s.obuf := rfl
@[simp] theorem pushIv_ord (v : Byte) (s : State) : (pushIv v s).ord = s.ord := rfl
@[simp] theorem pushIv_rk (v : Byte) (s : State) : (pushIv v s).rk = s.rk := rfl
@[simp] theorem pushIv_ctxValid (v : Byte) (s : State) : (pushIv v s).ctxValid = s.ctxValid := rfl
@[simp] theorem pushIv_result (v : Byte) (s : State) : (pushIv v s).result = s.result := rfl
@[simp] theorem pushIv_fault (v : Byte) (s : State) : (pushIv v s).fault = s.fault := rfl
@[simp] theorem pushIv_faultCause (v : Byte) (s : State) : (pushIv v s).faultCause = s.faultCause := rfl
@[simp] theorem pushIv_maxMsgBytes (v : Byte) (s : State) : (pushIv v s).maxMsgBytes = s.maxMsgBytes := rfl
@[simp] theorem pushIv_pending (v : Byte) (s : State) : (pushIv v s).pending = s.pending := rfl
@[simp] theorem pushIv_reads (v : Byte) (s : State) : (pushIv v s).reads = s.reads := rfl
@[simp] theorem pushIv_freeCount (v : Byte) (s : State) : (pushIv v s).freeCount = s.freeCount := rfl

/-! ### noteRead -/

@[simp] theorem noteRead_keybuf (v : Byte) (s : State) : (noteRead v s).keybuf = s.keybuf := rfl
@[simp] theorem noteRead_keycnt (v : Byte) (s : State) : (noteRead v s).keycnt = s.keycnt := rfl
@[simp] theorem noteRead_ivbuf (v : Byte) (s : State) : (noteRead v s).ivbuf = s.ivbuf := rfl
@[simp] theorem noteRead_ivcnt (v : Byte) (s : State) : (noteRead v s).ivcnt = s.ivcnt := rfl
@[simp] theorem noteRead_ibuf (v : Byte) (s : State) : (noteRead v s).ibuf = s.ibuf := rfl
@[simp] theorem noteRead_obuf (v : Byte) (s : State) : (noteRead v s).obuf = s.obuf := rfl
@[simp] theorem noteRead_ord (v : Byte) (s : State) : (noteRead v s).ord = s.ord := rfl
@[simp] theorem noteRead_rk (v : Byte) (s : State) : (noteRead v s).rk = s.rk := rfl
@[simp] theorem noteRead_ctxValid (v : Byte) (s : State) : (noteRead v s).ctxValid = s.ctxValid := rfl
@[simp] theorem noteRead_result (v : Byte) (s : State) : (noteRead v s).result = s.result := rfl
@[simp] theorem noteRead_fault (v : Byte) (s : State) : (noteRead v s).fault = s.fault := rfl
@[simp] theorem noteRead_faultCause (v : Byte) (s : State) : (noteRead v s).faultCause = s.faultCause := rfl
@[simp] theorem noteRead_maxMsgBytes (v : Byte) (s : State) : (noteRead v s).maxMsgBytes = s.maxMsgBytes := rfl
@[simp] theorem noteRead_pending (v : Byte) (s : State) : (noteRead v s).pending = s.pending := rfl
@[simp] theorem noteRead_reads (v : Byte) (s : State) : (noteRead v s).reads = s.reads ++ [v] := rfl
@[simp] theorem noteRead_freeCount (v : Byte) (s : State) : (noteRead v s).freeCount = s.freeCount := rfl

/-! ### withPending -/

@[simp] theorem withPending_keybuf (p : List Transaction) (s : State) : (withPending p s).keybuf = s.keybuf := rfl
@[simp] theorem withPending_keycnt (p : List Transaction) (s : State) : (withPending p s).keycnt = s.keycnt := rfl
@[simp] theorem withPending_ivbuf (p : List Transaction) (s : State) : (withPending p s).ivbuf = s.ivbuf := rfl
@[simp] theorem withPending_ivcnt (p : List Transaction) (s : State) : (withPending p s).ivcnt = s.ivcnt := rfl
@[simp] theorem withPending_ibuf (p : List Transaction) (s : State) : (withPending p s).ibuf = s.ibuf := rfl
@[simp] theorem withPending_obuf (p : List Transaction) (s : State) : (withPending p s).obuf = s.obuf := rfl
@[simp] theorem withPending_ord (p : List Transaction) (s : State) : (withPending p s).ord = s.ord := rfl
@[simp] theorem withPending_rk (p : List Transaction) (s : State) : (withPending p s).rk = s.rk := rfl
@[simp] theorem withPending_ctxValid (p : List Transaction) (s : State) : (withPending p s).ctxValid = s.ctxValid := rfl
@[simp] theorem withPending_result (p : List Transaction) (s : State) : (withPending p s).result = s.result := rfl
@[simp] theorem withPending_fault (p : List Transaction) (s : State) : (withPending p s).fault = s.fault := rfl
@[simp] theorem withPending_faultCause (p : List Transaction) (s : State) : (withPending p s).faultCause = s.faultCause := rfl
@[simp] theorem withPending_maxMsgBytes (p : List Transaction) (s : State) : (withPending p s).maxMsgBytes = s.maxMsgBytes := rfl
@[simp] theorem withPending_pending (p : List Transaction) (s : State) : (withPending p s).pending = p := rfl
@[simp] theorem withPending_reads (p : List Transaction) (s : State) : (withPending p s).reads = s.reads := rfl
@[simp] theorem withPending_freeCount (p : List Transaction) (s : State) : (withPending p s).freeCount = s.freeCount := rfl

end Sys2Proof.Machine
end

