-- ==== Sys2Proof/Laws/Ops.lean ====
section
/-! SUPPORT. For each shared operation, everything it can do; the provers cite these instead of unfolding it. -/

namespace Sys2Proof.Machine

/-! ### Prologues -/

/-- The block prologue raises NoContext, raises BadBlockLength, or lets the body run (R164). -/
theorem blockPrologue_cases (s body : State) :
    (s.ctxValid = false ∧ blockPrologue s body = raiseFault .noContext s) ∨
    (s.ctxValid = true ∧ s.icnt ≠ 16 ∧ blockPrologue s body = raiseFault .badBlockLength s) ∨
    (s.ctxValid = true ∧ s.icnt = 16 ∧ blockPrologue s body = body) := by
  unfold blockPrologue
  cases s.ctxValid
  · exact .inl ⟨rfl, rfl⟩
  · by_cases h : s.icnt = 16
    · exact .inr (.inr ⟨rfl, h, by simp only [h]; rfl⟩)
    · exact .inr (.inl ⟨rfl, h, by rw [if_neg (by decide), if_pos h]⟩)

/-- The mode prologue raises NoContext, replies MissingIv, raises BadIvLength, or lets the body run (R182). -/
theorem modePrologue_cases (m : Mode) (s body : State) :
    (s.ctxValid = false ∧ modePrologue m s body = raiseFault .noContext s) ∨
    (s.ctxValid = true ∧ m ≠ .ecb ∧ s.ivcnt = 0 ∧ modePrologue m s body = complete (.error .missingIv) s) ∨
    (s.ctxValid = true ∧ m ≠ .ecb ∧ s.ivcnt ≠ 0 ∧ s.ivcnt ≠ 16 ∧ modePrologue m s body = raiseFault .badIvLength s) ∨
    (s.ctxValid = true ∧ (m = .ecb ∨ s.ivcnt = 16) ∧ modePrologue m s body = body) := by
  unfold modePrologue
  cases s.ctxValid
  · exact .inl ⟨rfl, rfl⟩
  · by_cases hm : m = .ecb
    · exact .inr (.inr (.inr ⟨rfl, .inl hm, by simp [hm]⟩))
    · by_cases h0 : s.ivcnt = 0
      · exact .inr (.inl ⟨rfl, hm, h0, by simp [hm, h0]⟩)
      · by_cases h : s.ivcnt = 16
        · exact .inr (.inr (.inr ⟨rfl, .inr h, by simp [h]⟩))
        · exact .inr (.inr (.inl ⟨rfl, hm, h0, h, by simp [hm, h0, h]⟩))

/-- ECB passes the mode prologue as soon as there is a context (R182). -/
theorem modePrologue_ecb {s body : State} (h : s.ctxValid = true) : modePrologue .ecb s body = body := by
  simp [modePrologue, h]

/-- Every mode passes the prologue with a context and a 16-byte IV (R182). -/
theorem modePrologue_ready {m : Mode} {s body : State} (h : s.ctxValid = true) (hiv : s.ivcnt = 16) :
    modePrologue m s body = body := by
  simp [modePrologue, h, hiv]

/-- Without a context every mode command raises NoContext (R239). -/
theorem modePrologue_noContext {m : Mode} {s body : State} (h : s.ctxValid = false) :
    modePrologue m s body = raiseFault .noContext s := by
  simp [modePrologue, h]

/-- The length check passes whole blocks (R184). -/
theorem wholeBlocks_pass {s body : State} (h : s.icnt % 16 = 0) : wholeBlocks s body = body := by
  simp only [wholeBlocks, h]; rfl

/-- The length check rejects a partial block (R184). -/
theorem wholeBlocks_reject {s body : State} (h : s.icnt % 16 ≠ 0) :
    wholeBlocks s body = complete (.error .invalidBlockSize) s := if_pos h

/-! ### Ports -/

/-- A push to `DIN` raises BufferOverflow at capacity and appends below it (R66). -/
theorem pushData_cases (v : Byte) (s : State) :
    (s.icnt = s.maxMsgBytes ∧ pushData v s = raiseFault .bufferOverflow s) ∨
    (s.icnt ≠ s.maxMsgBytes ∧ pushData v s = { s with ibuf := s.ibuf ++ [v] }) := by
  by_cases h : s.icnt = s.maxMsgBytes
  · exact .inl ⟨h, if_pos h⟩
  · exact .inr ⟨h, if_neg h⟩

/-- A pop advances `ORD` where an output byte is left in a live engine, and else does nothing (R67). -/
theorem popDout_cases (s : State) :
    (s.fault = false ∧ s.ord < s.ocnt ∧ popDout s = { s with ord := s.ord + 1 }) ∨
    ((s.fault = true ∨ s.ocnt ≤ s.ord) ∧ popDout s = s) := by
  unfold popDout
  cases hf : s.fault
  · by_cases h : s.ord < s.ocnt
    · exact .inl ⟨rfl, h, by rw [if_neg (by decide), if_pos h]⟩
    · exact .inr ⟨.inr (by omega), by rw [if_neg (by decide), if_neg h]⟩
  · exact .inr ⟨.inl rfl, rfl⟩

/-- Only a read of `DOUT` can change the engine (R71). -/
theorem readEffect_cases (r : HostReg) (s : State) :
    readEffect r s = s ∨ (r = .dout ∧ readEffect r s = popDout s) := by
  cases r <;> first | exact .inl rfl | exact .inr ⟨rfl, rfl⟩

/-- The count of a pushed buffer stays in 0..17 (R20, R21). -/
theorem bumpCount_le (n : Nat) : bumpCount n ≤ 17 := by unfold bumpCount; omega

/-- The stored bytes of a pushed buffer are as many as its count says, up to 16 (R64, R65). -/
theorem storeByte_length {n : Nat} {buf : List Byte} (v : Byte) (h : buf.length = min n 16) :
    (storeByte n buf v).length = min (bumpCount n) 16 := by
  unfold storeByte bumpCount
  split <;> simp <;> omega

/-! ### Writes and commands -/

/-- What a write does: nothing in the fault state, the register's effect otherwise (R237, R243). -/
theorem writeReg_faulted {s : State} (h : s.fault = true) (r : HostReg) (v : Byte) : writeReg r v s = .next s := by
  simp [writeReg, h]

theorem writeReg_live {s : State} (h : s.fault = false) (r : HostReg) (v : Byte) : writeReg r v s = writeLive r v s := by
  simp [writeReg, h]

/-- A command ends in one of three ways: it completes with a reply, it completes with a new context (LOAD_KEY), or it
raises a fault that is not BufferOverflow or IllegalCommand (R233, R236). -/
theorem exec_cases (i : Instr) (s : State) :
    (∃ r, exec i s = .next (complete r s)) ∨
    (i = .loadKey ∧ s.keycnt = 16 ∧
      exec i s = .next (complete (.ok []) (installContext (expand (stagedKey s)) s))) ∨
    (∃ c, exec i s = .next (raiseFault c s)) := by
  have mode : ∀ m r, (∃ r', modePrologue m s (complete r s) = complete r' s) ∨
      (∃ c, modePrologue m s (complete r s) = raiseFault c s) := by
    intro m r
    rcases modePrologue_cases m s (complete r s) with ⟨_, h⟩ | ⟨_, _, _, h⟩ | ⟨_, _, _, _, h⟩ | ⟨_, _, h⟩
    · exact .inr ⟨_, h⟩
    · exact .inl ⟨_, h⟩
    · exact .inr ⟨_, h⟩
    · exact .inl ⟨_, h⟩
  have whole : ∀ m r, (∃ r', modePrologue m s (wholeBlocks s (complete r s)) = complete r' s) ∨
      (∃ c, modePrologue m s (wholeBlocks s (complete r s)) = raiseFault c s) := by
    intro m r
    by_cases h : s.icnt % 16 = 0
    · rw [wholeBlocks_pass h]; exact mode m r
    · rw [wholeBlocks_reject h]; exact mode m _
  have block : ∀ r, (∃ r', blockPrologue s (complete r s) = complete r' s) ∨
      (∃ c, blockPrologue s (complete r s) = raiseFault c s) := by
    intro r
    rcases blockPrologue_cases s (complete r s) with ⟨_, h⟩ | ⟨_, _, h⟩ | ⟨_, _, h⟩
    · exact .inr ⟨_, h⟩
    · exact .inr ⟨_, h⟩
    · exact .inl ⟨_, h⟩
  have lift : ∀ {t : State}, ((∃ r', t = complete r' s) ∨ (∃ c, t = raiseFault c s)) →
      (∃ r, (Host.Outcome.next t : Host.Outcome State Fault Refusal) = .next (complete r s)) ∨
      (i = .loadKey ∧ s.keycnt = 16 ∧ (Host.Outcome.next t : Host.Outcome State Fault Refusal) =
        .next (complete (.ok []) (installContext (expand (stagedKey s)) s))) ∨
      (∃ c, (Host.Outcome.next t : Host.Outcome State Fault Refusal) = .next (raiseFault c s)) := by
    rintro t (⟨r, rfl⟩ | ⟨c, rfl⟩)
    · exact .inl ⟨r, rfl⟩
    · exact .inr (.inr ⟨c, rfl⟩)
  cases i
  case loadKey =>
    by_cases h : s.keycnt = 16
    · exact .inr (.inl ⟨rfl, h, by simp [exec, execLoadKey, h]⟩)
    · exact .inl ⟨_, by simp [exec, execLoadKey, h]; rfl⟩
  case encBlock => exact lift (block _)
  case decBlock => exact lift (block _)
  case ecbEnc => exact lift (mode _ _)
  case ecbDec => exact lift (whole _ _)
  case flush => exact .inl ⟨_, rfl⟩
  case cbcEnc => exact lift (mode _ _)
  case cbcDec => exact lift (whole _ _)
  case cfbEnc => exact lift (mode _ _)
  case cfbDec => exact lift (mode _ _)
  case ctrEnc => exact lift (mode _ _)
  case ctrDec => exact lift (mode _ _)

/-- A write to `CMD` runs the command the byte decodes to, or raises IllegalCommand (R68, R95). -/
theorem writeCmd_cases (v : Byte) (s : State) :
    (∃ i, decode v = .ok i ∧ writeCmd v s = exec i s) ∨
    (decode v = .error .illegalCommand ∧ writeCmd v s = .next (raiseFault .illegalCommand s)) := by
  unfold writeCmd
  cases h : decode v with
  | ok i => exact .inl ⟨i, rfl, rfl⟩
  | error e => cases e; exact .inr ⟨rfl, rfl⟩

/-- Everything a write to a live engine can do (R62 to R68). -/
theorem writeLive_cases (r : HostReg) (v : Byte) (s : State) :
    (r = .cmd ∧ writeLive r v s = writeCmd v s) ∨
    (r = .keyIn ∧ writeLive r v s = .next (pushKey v s)) ∨
    (r = .ivIn ∧ writeLive r v s = .next (pushIv v s)) ∨
    (r = .din ∧ writeLive r v s = .next (pushData v s)) ∨
    ((r = .status ∨ r = .result ∨ r = .faultCause ∨ r = .dout) ∧ writeLive r v s = .next s) := by
  cases r <;> simp [writeLive]

/-- The register map both ways (R62). -/
theorem regOf_offsetOf (r : HostReg) : regOf (offsetOf r) = r := by cases r <;> rfl

theorem offsetOf_regOf (off : BitVec 3) : offsetOf (regOf off) = off := by revert off; decide

end Sys2Proof.Machine
end

