-- ==== Sys2Proof/Laws/Schedule.lean ====
section
/-! SUPPORT. What the flat key schedule holds after its loop (R133): one lemma for its length, one for the bytes it started
from, one for each word it wrote. -/

namespace Sys2Proof.Machine

@[simp] theorem scheduleWord_length (w : List Byte) (ki : Nat) : (scheduleWord w ki).length = 4 := by
  simp [scheduleWord]

theorem scheduleLoop_length (n ki : Nat) (w : List Byte) : (scheduleLoop n ki w).length = w.length + 4 * n := by
  induction n generalizing ki w with
  | zero => rfl
  | succ n ih => simp [scheduleLoop, ih]; omega

/-- The loop writes behind the bytes it was given. -/
theorem scheduleLoop_getD_lt (n ki : Nat) (w : List Byte) {i : Nat} (h : i < w.length) :
    (scheduleLoop n ki w).getD i 0 = w.getD i 0 := by
  induction n generalizing ki w with
  | zero => rfl
  | succ n ih =>
    rw [scheduleLoop, ih _ _ (by simp; omega), List.getD_append _ _ _ _ h]

/-- A word read from bytes that agree below its end is the same. -/
theorem wordAt_congr {w w' : List Byte} {a n : Nat} (h : ∀ i, i < n → w.getD i 0 = w'.getD i 0) (ha : a + 4 ≤ n) :
    wordAt w a = wordAt w' a := by
  simp only [wordAt]
  rw [h a (by omega), h (a + 1) (by omega), h (a + 2) (by omega), h (a + 3) (by omega)]

/-- The word the loop writes at `KI` depends on the bytes below `KI` only (R133). -/
theorem scheduleWord_congr {w w' : List Byte} {ki : Nat} (h : ∀ i, i < ki → w.getD i 0 = w'.getD i 0) (hk : 16 ≤ ki) :
    scheduleWord w ki = scheduleWord w' ki := by
  have h1 := wordAt_congr h (show (ki - 4) + 4 ≤ ki by omega)
  have h2 := wordAt_congr h (show (ki - 16) + 4 ≤ ki by omega)
  simp only [scheduleWord, scheduleTemp, h1, h2]

/-- Every word the loop wrote is the schedule's word of the finished string (R133). -/
theorem scheduleLoop_word (n ki : Nat) (w : List Byte) (hw : w.length = ki) (hk : 16 ≤ ki) {m j : Nat} (hm : m < n)
    (hj : j < 4) :
    (scheduleLoop n ki w).getD (ki + 4 * m + j) 0 = (scheduleWord (scheduleLoop n ki w) (ki + 4 * m)).getD j 0 := by
  induction n generalizing ki w m with
  | zero => omega
  | succ n ih =>
    rw [scheduleLoop]
    have hlen : (w ++ scheduleWord w ki).length = ki + 4 := by simp [hw]
    cases m with
    | zero =>
      rw [scheduleLoop_getD_lt _ _ _ (by omega), List.getD_append_right _ _ _ _ (by omega)]
      have e : scheduleWord (scheduleLoop n (ki + 4) (w ++ scheduleWord w ki)) (ki + 4 * 0) = scheduleWord w ki := by
        refine scheduleWord_congr (fun i hi => ?_) (by omega)
        rw [scheduleLoop_getD_lt _ _ _ (by omega), List.getD_append _ _ _ _ (by omega)]
      rw [e, show ki + 4 * 0 + j - w.length = j by omega]
    | succ m =>
      have := ih (ki + 4) (w ++ scheduleWord w ki) hlen (by omega) (m := m) (by omega)
      rw [show ki + 4 * (m + 1) = ki + 4 + 4 * m by omega]
      exact this

/-- Byte `j` of a word. -/
theorem wordAt_get (w : List Byte) (a : Nat) {j : Nat} (hj : j < 4) : (wordAt w a)[j] = w.getD (a + j) 0 := by
  obtain rfl | rfl | rfl | rfl : j = 0 ∨ j = 1 ∨ j = 2 ∨ j = 3 := by omega
  · rfl
  · rfl
  · rfl
  · rfl

/-- Byte `j` of the schedule's word at `KI` (R133). -/
theorem scheduleWord_getD (w : List Byte) (ki : Nat) {j : Nat} (hj : j < 4) :
    (scheduleWord w ki).getD j 0 = w.getD (ki - 16 + j) 0 ^^^ (scheduleTemp w ki)[j] := by
  rw [List.getD_eq_getElem _ _ (by simpa using hj), ← wordAt_get _ _ hj]
  simp [scheduleWord]

theorem expandFlat_length (key : Block) : (expandFlat key).length = 176 := by
  simp [expandFlat, scheduleLoop_length]

/-- Round key 0 is the key (R134). -/
theorem expandFlat_key (key : Block) {i : Nat} (h : i < 16) : (expandFlat key).getD i 0 = key[i] := by
  rw [expandFlat, scheduleLoop_getD_lt _ _ _ (by simpa using h), List.getD_eq_getElem _ _ (by simpa using h)]
  simp

/-- Byte `j` of the word at `KI`, for the 40 words the schedule writes (R133). -/
theorem expandFlat_word (key : Block) {m j : Nat} (hm : m < 40) (hj : j < 4) :
    (expandFlat key).getD (16 + 4 * m + j) 0 = (scheduleWord (expandFlat key) (16 + 4 * m)).getD j 0 :=
  scheduleLoop_word 40 16 key.toList (by simp) le_rfl hm hj

/-- Byte `i` of round key `r` is byte `16*r + i` of the flat schedule (R133). -/
theorem expand_get (key : Block) (r : Nat) (hr : r < 11) (i : Nat) (hi : i < 16) :
    (expand key)[r][i] = (expandFlat key).getD (16 * r + i) 0 := by
  simp [expand, List.getElem?_drop]

end Sys2Proof.Machine
end

