-- ==== Sys2Proof/Laws/Step.lean ====
section
/-! SUPPORT. Everything one step can do, once; invariants are derived from `step_cases`. -/

namespace Sys2Proof.Machine

/-- What is left of a successful command: a completion, a new context, or a fault (see `exec_cases`). -/
theorem exec_next_cases {i : Instr} {s t : State} (h : exec i s = .next t) :
    (∃ r, t = complete r s) ∨
    (i = .loadKey ∧ s.keycnt = 16 ∧ t = complete (.ok []) (installContext (expand (stagedKey s)) s)) ∨
    (∃ c, t = raiseFault c s) := by
  rcases exec_cases i s with ⟨r, h'⟩ | ⟨hi, hk, h'⟩ | ⟨c, h'⟩ <;> rw [h'] at h <;> cases h
  · exact .inl ⟨r, rfl⟩
  · exact .inr (.inl ⟨hi, hk, rfl⟩)
  · exact .inr (.inr ⟨c, rfl⟩)

/-- Everything a write to a live engine does, by offset (R62 to R68). -/
theorem writeReg_next_cases {off : BitVec 3} {v : Byte} {s t : State} (h : writeReg (regOf off) v s = .next t) :
    (s.fault = true ∧ t = s) ∨
    (s.fault = false ∧
      ((off = 0 ∧ ∃ i, decode v = .ok i ∧ exec i s = .next t) ∨
       (off = 0 ∧ decode v = .error .illegalCommand ∧ t = raiseFault .illegalCommand s) ∨
       (off = 4 ∧ t = pushKey v s) ∨
       (off = 5 ∧ t = pushIv v s) ∨
       (off = 6 ∧ t = pushData v s) ∨
       ((off = 1 ∨ off = 2 ∨ off = 3 ∨ off = 7) ∧ t = s))) := by
  have at_reg : ∀ {r : HostReg}, regOf off = r → off = offsetOf r := fun hr => by rw [← hr, offsetOf_regOf]
  cases hf : s.fault
  · rw [writeReg_live hf] at h
    refine .inr ⟨rfl, ?_⟩
    rcases writeLive_cases (regOf off) v s with ⟨hr, h'⟩ | ⟨hr, h'⟩ | ⟨hr, h'⟩ | ⟨hr, h'⟩ | ⟨hr, h'⟩ <;> rw [h'] at h
    · rcases writeCmd_cases v s with ⟨i, hd, h''⟩ | ⟨hd, h''⟩ <;> rw [h''] at h
      · exact .inl ⟨at_reg hr, i, hd, h⟩
      · cases h; exact .inr (.inl ⟨at_reg hr, hd, rfl⟩)
    · cases h; exact .inr (.inr (.inl ⟨at_reg hr, rfl⟩))
    · cases h; exact .inr (.inr (.inr (.inl ⟨at_reg hr, rfl⟩)))
    · cases h; exact .inr (.inr (.inr (.inr (.inl ⟨at_reg hr, rfl⟩))))
    · cases h
      refine .inr (.inr (.inr (.inr (.inr ⟨?_, rfl⟩))))
      rcases hr with hr | hr | hr | hr
      · exact .inl (at_reg hr)
      · exact .inr (.inl (at_reg hr))
      · exact .inr (.inr (.inl (at_reg hr)))
      · exact .inr (.inr (.inr (at_reg hr)))
  · rw [writeReg_faulted hf] at h
    cases h
    exact .inl ⟨rfl, rfl⟩

/-- Everything one step can do: idle, reset, read, or write. -/
theorem step_cases {s t : State} (h : step s = .next t) :
    (s.pending = [] ∧ t = s) ∨
    ∃ e rest, s.pending = e :: rest ∧
      ((e = .reset ∧ t = resetEvent (withPending rest s)) ∨
       (∃ off, e = .read off ∧ t = readReg (regOf off) (withPending rest s)) ∨
       (∃ off v, e = .write off v ∧ writeReg (regOf off) v (withPending rest s) = .next t)) := by
  unfold step at h
  cases hp : s.pending with
  | nil => rw [hp] at h; cases h; exact .inl ⟨rfl, rfl⟩
  | cons e rest =>
    rw [hp] at h
    refine .inr ⟨e, rest, rfl, ?_⟩
    cases e with
    | reset => cases h; exact .inl ⟨rfl, rfl⟩
    | read off => cases h; exact .inr (.inl ⟨off, rfl, rfl⟩)
    | write off v => exact .inr (.inr ⟨off, v, rfl, h⟩)

/-- A step by what is pending. -/
theorem step_nil {s : State} (h : s.pending = []) : step s = .next s := by simp only [step, h]

theorem step_reset {s : State} {rest : List Transaction} (h : s.pending = .reset :: rest) :
    step s = .next (resetEvent (withPending rest s)) := by simp only [step, h, transact]

theorem step_read {s : State} {off : BitVec 3} {rest : List Transaction} (h : s.pending = .read off :: rest) :
    step s = .next (readReg (regOf off) (withPending rest s)) := by simp only [step, h, transact]

theorem step_write {s : State} {off : BitVec 3} {v : Byte} {rest : List Transaction}
    (h : s.pending = .write off v :: rest) :
    step s = writeReg (regOf off) v (withPending rest s) := by simp only [step, h, transact]

end Sys2Proof.Machine
end

