-- ==== Sys2Proof/Tests/Slice0.lean ====
section
/-! SUPPORT. Tests against values printed in the spec (the rule or the vector V<n> is named at each), ill-formed command
fields, and one state for every statement's hypotheses. -/

namespace Sys2Proof.Tests

open Sys2Proof Sys2Proof.Machine Sys2Proof.Statements

/-! ## Helpers -/

/-- The byte string of `n` bytes whose hex digits, first byte first, are those of `v`. -/
def hexBytes (n v : Nat) : List Byte := (List.range n).map fun i => BitVec.ofNat 8 (v / 256 ^ (n - 1 - i))

/-- The block whose hex digits are those of `v`. -/
def hexBlock (v : Nat) : Block := Vector.ofFn fun i => BitVec.ofNat 8 (v / 256 ^ (15 - i.val))

/-- A live engine after reset with MAX_MSG_BYTES = 32. -/
def idle : State := { State.reset with maxMsgBytes := 32 }

/-- The eleven round keys V10 prints for the key 2b7e151628aed2a6abf7158809cf4f3c. -/
def keysV10 : RoundKeys :=
  #v[hexBlock 0x2b7e151628aed2a6abf7158809cf4f3c, hexBlock 0xa0fafe1788542cb123a339392a6c7605,
    hexBlock 0xf2c295f27a96b9435935807a7359f67f, hexBlock 0x3d80477d4716fe3e1e237e446d7a883b,
    hexBlock 0xef44a541a8525b7fb671253bdb0bad00, hexBlock 0xd4d1c6f87c839d87caf2b8bc11f915bc,
    hexBlock 0x6d88a37a110b3efddbf98641ca0093fd, hexBlock 0x4e54f70e5f5fc9f384a64fb24ea6dc4f,
    hexBlock 0xead27321b58dbad2312bf5607f8d292f, hexBlock 0xac7766f319fadc2128d12941575c006e,
    hexBlock 0xd014f9a8c9ee2589e13f0cc8b6630ca6]

/-- A live engine with that context and `m` staged. -/
def ready (m : List Byte) : State := { idle with rk := keysV10, ctxValid := true, ibuf := m }

/-- The IV of the spec's vectors. -/
def iv0 : Block := hexBlock 0x000102030405060708090a0b0c0d0e0f

/-- The same with an IV staged. -/
def readyIv (iv : Block) (m : List Byte) : State := { ready m with ivbuf := iv.toList, ivcnt := 16 }

/-- `RESULT` and the output after a command that did not fault. -/
def outcome : Host.Outcome State Fault Refusal → Option (Byte × List Byte)
  | .next t => if t.fault then none else some (t.result, t.obuf)
  | .fault _ => none
  | .refused _ => none

/-- The next state. -/
def nextOf : Host.Outcome State Fault Refusal → Option State
  | .next t => some t
  | .fault _ => none
  | .refused _ => none

/-- `FAULTCAUSE` after a command that faulted. -/
def causeOf : Host.Outcome State Fault Refusal → Option Byte
  | .next t => if t.fault then some t.faultCause else none
  | .fault _ => none
  | .refused _ => none

/-! ## Well-formed fields (R91): each check refuses an ill-formed term -/

theorem test_wf_zero_nonzero : (CmdFields.mk 0b01 0b00 0b0001).wellFormed = false := by decide
theorem test_wf_zero_high_bit : (CmdFields.mk 0b10 0b01 0b0100).wellFormed = false := by decide
theorem test_wf_plain_op_with_mode : (CmdFields.mk 0b00 0b01 0b0110).wellFormed = false := by decide
theorem test_wf_op_zero : (CmdFields.mk 0b00 0b00 0b0000).wellFormed = false := by decide
theorem test_wf_op_seven : (CmdFields.mk 0b00 0b00 0b0111).wellFormed = false := by decide
theorem test_wf_ctr_dec : (CmdFields.mk 0b00 0b11 0b0101).wellFormed = true := by decide

/-! ## Decoding (R91, R92, R95); one word per family, written from the fields ZERO MODE OP -/

theorem test_decode_keySchedule : decode (0b00#2 ++ 0b00#2 ++ 0b0001#4) = .ok .loadKey := by decide
theorem test_decode_blockTransform : decode (0b00#2 ++ 0b00#2 ++ 0b0011#4) = .ok .decBlock := by decide
theorem test_decode_modeDriver : decode (0b00#2 ++ 0b10#2 ++ 0b0100#4) = .ok .cfbEnc := by decide
theorem test_decode_housekeeping : decode (0b00#2 ++ 0b00#2 ++ 0b0110#4) = .ok .flush := by decide
theorem test_decode_zero_byte : decode 0x00 = .error .illegalCommand := by decide
theorem test_decode_zero_bit_set : decode 0x44 = .error .illegalCommand := by decide
theorem test_decodeTableWord : decodeTableWord 8 0x35 = some .ctrDec := by decide
theorem test_decodeTableWord_two_bytes : decodeTableWord 16 0x35 = none := by decide

/-- The word stored for the host's row check is the command the next step runs (R68). -/
theorem test_withFetchWord : step (idle.withFetchWord 8 0x06) = exec .flush idle := by rfl

/-! ## Field and tables (V20, V21) -/

theorem test_gfMul_v20 : gfMul 0x57 0x83 = 0xC1 ∧ gfMul 0x0D 0x53 = 0xAA := by decide
theorem test_sbox_v21 : sbox 0x10 = 0xCA ∧ sbox 0xC9 = 0xDD ∧ invSbox 0x7C = 0x01 ∧ invSbox 0xED = 0x53 := by decide

/-! ## Key schedule (R131, R132, V10) -/

theorem test_rotWord : rotWord #v[0x09, 0xCF, 0x4F, 0x3C] = #v[0xCF, 0x4F, 0x3C, 0x09] := by decide
theorem test_subWord : subWord #v[0xCF, 0x4F, 0x3C, 0x09] = #v[0x8A, 0x84, 0xEB, 0x01] := by decide
theorem test_expand_v10 : expand (hexBlock 0x2b7e151628aed2a6abf7158809cf4f3c) = keysV10 := by decide +kernel

/-! ## Round steps (the examples of R150 to R157) -/

theorem test_addRoundKey : addRoundKey (hexBlock 0x3243f6a8885a308d313198a2e0370734) keysV10[0] =
    hexBlock 0x193de3bea0f4e22b9ac68d2ae9f84808 := by decide +kernel
theorem test_subBytes : subBytes (hexBlock 0x193de3bea0f4e22b9ac68d2ae9f84808) =
    hexBlock 0xd42711aee0bf98f1b8b45de51e415230 := by decide +kernel
theorem test_shiftRows : shiftRows (hexBlock 0x000102030405060708090a0b0c0d0e0f) =
    hexBlock 0x00050a0f04090e03080d02070c01060b := by decide +kernel
theorem test_mixColumns : mixColumns (hexBlock 0xd4bf5d30e0b452aeb84111f11e2798e5) =
    hexBlock 0x046681e5e0cb199a48f8d37a2806264c := by decide +kernel
theorem test_invShiftRows : invShiftRows (hexBlock 0x000102030405060708090a0b0c0d0e0f) =
    hexBlock 0x000d0a0704010e0b0805020f0c090603 := by decide +kernel
theorem test_invSubBytes : invSubBytes (hexBlock 0x000102030405060708090a0b0c0d0e0f) =
    hexBlock 0x52096ad53036a538bf40a39e81f3d7fb := by decide +kernel
theorem test_invMixColumns : invMixColumns (hexBlock 0x046681e5e0cb199a48f8d37a2806264c) =
    hexBlock 0xd4bf5d30e0b452aeb84111f11e2798e5 := by decide +kernel

/-! ## Padding (the corner cases of R211, R212) -/

theorem test_addPadding_aligned : addPadding (List.replicate 16 0xAA) =
    List.replicate 16 0xAA ++ List.replicate 16 0x10 := by decide
theorem test_addPadding_one : addPadding [0xAA] = 0xAA :: List.replicate 15 0x0F := by decide
theorem test_removePadding_single : removePadding [0x01] = .ok [] ∧ removePadding [0x03] = .error .invalidPadding := by
  decide
theorem test_removePadding_bad : removePadding (List.replicate 15 0x0F ++ [0x10]) = .error .invalidPadding ∧
    removePadding (List.replicate 14 0x00 ++ [0x02, 0x03]) = .error .invalidPadding := by decide

/-! ## Commands, one step each -/

/-- R135 at 17 pushed bytes: InvalidKeySize, the context stays. -/
theorem test_loadKey_long : outcome (exec .loadKey { ready [] with keybuf := List.replicate 16 0, keycnt := 17 }) =
    some (0x01, []) := by decide

/-- R135: LOAD_KEY installs the round keys of V10. -/
theorem test_loadKey_v10 :
    nextOf (exec .loadKey { idle with keybuf := hexBytes 16 0x2b7e151628aed2a6abf7158809cf4f3c, keycnt := 16 }) =
      some { idle with rk := keysV10, ctxValid := true } := by decide +kernel

/-- V1. -/
theorem test_encBlock_v1 : outcome (exec .encBlock (ready (hexBytes 16 0x3243f6a8885a308d313198a2e0370734))) =
    some (0x00, hexBytes 16 0x3925841d02dc09fbdc118597196a0b32) := by decide +kernel

/-- V2. -/
theorem test_decBlock_v2 : outcome (exec .decBlock (ready (hexBytes 16 0x3925841d02dc09fbdc118597196a0b32))) =
    some (0x00, hexBytes 16 0x3243f6a8885a308d313198a2e0370734) := by decide +kernel

/-- R240. -/
theorem test_decBlock_short : causeOf (exec .decBlock (ready (List.replicate 15 0))) = some 0x02 := by decide

/-- V31. -/
theorem test_ecbEnc_v31 : outcome (exec .ecbEnc (ready [])) = some (0x00, hexBytes 16 0xa254be88e037ddd9d79fb6411c3f9df8) := by
  decide +kernel

/-- V31, back: OK and no byte. -/
theorem test_ecbDec_v31 : outcome (exec .ecbDec (ready (hexBytes 16 0xa254be88e037ddd9d79fb6411c3f9df8))) =
    some (0x00, []) := by decide +kernel

/-- R184: 17 bytes are InvalidBlockSize. -/
theorem test_ecbDec_partial : outcome (exec .ecbDec (ready (List.replicate 17 0))) = some (0x02, []) := by decide

/-- V36: the second block chains the first. -/
theorem test_cbcEnc_v36 : outcome (exec .cbcEnc (readyIv iv0 (hexBytes 16 0x6bc1bee22e409f96e93d7e117393172a))) =
    some (0x00, hexBytes 32 0x7649abac8119b246cee98e9b12e9197d8964e0b149c10b7b682e6e39aaeb731c) := by decide +kernel

/-- V35, back: the IV is XORed after `D`. -/
theorem test_cbcDec_v35 : outcome (exec .cbcDec (readyIv iv0 (hexBytes 16 0xc84af0b613435d5d9182801a9bd9320b))) =
    some (0x00, []) := by decide +kernel

/-- V40: 20 bytes. -/
theorem test_cfbEnc_v40 : outcome (exec .cfbEnc (readyIv iv0 (hexBytes 20 0x6bc1bee22e409f96e93d7e117393172aae2d8a57))) =
    some (0x00, hexBytes 20 0x3b3fd92eb72dad20333449f8e83cfb4ac8a64537) := by decide +kernel

/-- V40, back: the register is loaded from the ciphertext. -/
theorem test_cfbDec_v40 : outcome (exec .cfbDec (readyIv iv0 (hexBytes 20 0x3b3fd92eb72dad20333449f8e83cfb4ac8a64537))) =
    some (0x00, hexBytes 20 0x6bc1bee22e409f96e93d7e117393172aae2d8a57) := by decide +kernel

/-- V42: the second counter block is the nonce plus one. -/
theorem test_ctrEnc_v42 : outcome (exec .ctrEnc (readyIv iv0 (hexBytes 20 0x6bc1bee22e409f96e93d7e117393172aae2d8a57))) =
    some (0x00, hexBytes 20 0x3b3fd92eb72dad20333449f8e83cfb4a010c0419) := by decide +kernel

/-- V45, second block: the carry leaves the low 64 bits. -/
theorem test_ctrDec_v45 : (outcome (exec .ctrDec (readyIv (hexBlock 0x0000000000000000ffffffffffffffff) (List.replicate 17 0)))).map
    (fun r => r.2.getLast?) = some (some 0xdc) := by decide +kernel

/-- R182: MissingIv. -/
theorem test_ctrDec_missingIv : outcome (exec .ctrDec (ready [])) = some (0x04, []) := by decide

/-- R241: one IV byte is BadIvLength. -/
theorem test_cbcDec_badIv : causeOf (exec .cbcDec { ready [] with ivbuf := [0], ivcnt := 1 }) = some 0x04 := by decide

/-- R220: FLUSH keeps the context. -/
theorem test_flush : exec .flush { ready [0xAA, 0xBB, 0xCC] with keybuf := [0x00, 0x11], keycnt := 2 } = .next (ready []) := by
  rfl

/-! ## Transactions, one step each -/

/-- R95: an illegal byte at CMD faults, and STATUS then reads 0x80 (R29). -/
theorem test_write_illegal : causeOf (step { idle with pending := [.write 0 0x07] }) = some 0x01 := by decide

/-- R66: the byte past MAX_MSG_BYTES faults. -/
theorem test_din_overflow : causeOf (step { idle with ibuf := List.replicate 32 0, pending := [.write 6 0] }) = some 0x05 := by
  decide

/-- R64: the seventeenth key byte is counted and dropped. -/
theorem test_keyin_seventeenth : step { idle with keybuf := List.replicate 16 1, keycnt := 16, pending := [.write 4 2] } =
    .next { idle with keybuf := List.replicate 16 1, keycnt := 17 } := by rfl

/-- R67: a pop. -/
theorem test_dout_pop : step { idle with obuf := [0xAA, 0xBB], pending := [.read 7] } =
    .next { idle with obuf := [0xAA, 0xBB], ord := 1, reads := [0xAA] } := by rfl

/-- R29: STATUS with a context and unread output. -/
theorem test_status : step { ready [] with obuf := [0xAA], pending := [.read 1] } =
    .next { ready [] with obuf := [0xAA], reads := [0x03] } := by rfl

/-! ## Witnesses: states and operands that meet each statement's hypotheses together -/

/-- A faulted engine (cause NoContext). -/
def faulted : State := { idle with fault := true, faultCause := 0x03, result := 0x01 }

/-- An engine with these events pending. -/
def pend (p : List Transaction) (s : State) : State := { s with pending := p }

theorem inv_idle : idle.Inv where
  live := fun _ =>
    { keycnt := by decide, keybuf := rfl, ivcnt := by decide, ivbuf := rfl, icnt := by decide, ord := by decide,
      ocnt := by decide, context := by simp [idle, State.reset], cause := rfl }
  faulted := by simp [idle, State.reset]
  result := by decide
  capacity := by decide

theorem witness_StepRunsTheDecodedCommand : ∃ (s : State) (v : Byte) (i : Instr) (rest : List Transaction),
    s.fault = false ∧ s.pending = .write 0 v :: rest ∧ decode v = .ok i :=
  ⟨pend [.write 0 0x35] idle, 0x35, .ctrDec, [], rfl, rfl, rfl⟩

theorem witness_EveryStepCompletesOneEvent :
    (idle.pending = []) ∧ (∃ (s : State) (e : Transaction) (rest : List Transaction), s.pending = e :: rest ∧ ∃ off : BitVec 3, e = .read off) ∧
    (∃ (s : State) (e : Transaction) (rest : List Transaction), s.pending = e :: rest ∧ ¬ ∃ off : BitVec 3, e = .read off) :=
  ⟨rfl, ⟨pend [.read 7] idle, _, _, rfl, 7, rfl⟩, ⟨pend [.reset] idle, _, _, rfl, by simp⟩⟩

theorem witness_StepKeepsEngineInvariant : ∃ s t : State, State.Inv s ∧ step s = .next t :=
  ⟨idle, _, inv_idle, rfl⟩

/-- Two states that differ in `RK` alone, which no host can see without a context. -/
theorem witness_UnspecifiedStateNeverReachesTheHost : ∃ (n : Nat) (s s' t t' : State), s ≠ s' ∧ SameToHost s s' ∧
    Host.Core.run core n s = .next t ∧ Host.Core.run core n s' = .next t' := by
  refine ⟨1, pend [.read 1] idle, pend [.read 1] { idle with rk := keysV10 }, _, _, ?_, ?_, rfl, rfl⟩
  · intro h
    exact absurd (congrArg State.rk h) (by decide +kernel)
  · exact ⟨rfl, rfl, rfl, rfl, rfl, rfl, fun _ => ⟨rfl, rfl, rfl, rfl, rfl, rfl, rfl, rfl, by simp [pend, idle, State.reset]⟩⟩

/-- One for each way out: a reset, a `LOAD_KEY` of 16 bytes, anything else. -/
theorem witness_ContextChangesOnlyByLoadKeyOrReset :
    (∃ s t : State, s.fault = false ∧ step s = .next t ∧ t.fault = false ∧ s.pending = [.reset]) ∧
    (∃ s t : State, s.fault = false ∧ step s = .next t ∧ t.fault = false ∧ s.pending = [.write 0 0x01] ∧ s.keycnt = 16) ∧
    (∃ s t : State, s.fault = false ∧ step s = .next t ∧ t.fault = false ∧ s.pending = [.write 0 0x06]) :=
  ⟨⟨pend [.reset] idle, _, rfl, rfl, rfl, rfl⟩,
    ⟨pend [.write 0 0x01] { idle with keybuf := List.replicate 16 0, keycnt := 16 }, _, rfl, rfl, rfl, rfl, rfl⟩,
    ⟨pend [.write 0 0x06] idle, _, rfl, rfl, rfl, rfl⟩⟩

theorem witness_OnlyResetLeavesTheFaultState :
    (∃ s t : State, s.fault = true ∧ step s = .next t ∧ t.fault = false) ∧
    (∃ s t : State, s.fault = true ∧ step s = .next t ∧ t.fault = true) :=
  ⟨⟨pend [.reset] faulted, _, rfl, rfl, rfl⟩, ⟨pend [.write 0 0x06] faulted, _, rfl, rfl, rfl⟩⟩

/-- A completion with OK, one with an error. -/
theorem witness_CompletionConsumesStagingAndKeepsTheRest :
    (∃ (i : Instr) (s t : State), s.fault = false ∧ exec i s = .next t ∧ t.fault = false ∧ t.result = 0x00 ∧ i ≠ .loadKey) ∧
    (∃ (i : Instr) (s t : State), s.fault = false ∧ exec i s = .next t ∧ t.fault = false ∧ t.result ≠ 0x00) :=
  ⟨⟨.flush, idle, _, rfl, rfl, rfl, rfl, by decide⟩, ⟨.loadKey, idle, _, rfl, rfl, rfl, by decide⟩⟩

theorem witness_CommandChecksRunInTheirOrder :
    ∃ (s : State) (v : Byte) (rest : List Transaction) (t : State), s.pending = .write 0 v :: rest ∧ step s = .next t :=
  ⟨pend [.write 0 0x15] (ready (List.replicate 17 0)), _, _, _, rfl, rfl⟩

/-- Two messages of one length. -/
theorem witness_ContentNeverDecidesAFault : ∃ (i : Instr) (s s' t t' : State), s.ibuf ≠ s'.ibuf ∧ s.fault = false ∧ s'.fault = false ∧
    s.faultCause = s'.faultCause ∧ s.ctxValid = s'.ctxValid ∧ s.keycnt = s'.keycnt ∧ s.ivcnt = s'.ivcnt ∧
    s.ibuf.length = s'.ibuf.length ∧ exec i s = .next t ∧ exec i s' = .next t' :=
  ⟨.encBlock, { idle with ibuf := [0] }, { idle with ibuf := [1] }, _, _, by decide, rfl, rfl, rfl, rfl, rfl, rfl, rfl,
    rfl, rfl⟩

theorem witness_NoContextFaults :
    (∃ (i : Instr) (s : State), i ∈ needsContext ∧ s.fault = false ∧ s.ctxValid = false) ∧
    (∃ (i : Instr) (s : State), (i = .loadKey ∨ i = .flush) ∧ s.fault = false) :=
  ⟨⟨.ecbEnc, idle, by decide, rfl, rfl⟩, ⟨.loadKey, idle, .inl rfl, rfl⟩⟩

/-- 15, 16 and 17 staged bytes; a command that is no block command and faults. -/
theorem witness_WrongBlockLengthFaults :
    (∃ (i : Instr) (s : State), i ∈ blockCommands ∧ Ready s ∧ s.ibuf.length = 15) ∧
    (∃ (i : Instr) (s : State), i ∈ blockCommands ∧ Ready s ∧ s.ibuf.length = 16) ∧
    (∃ (i : Instr) (s : State), i ∈ blockCommands ∧ Ready s ∧ s.ibuf.length = 17) ∧
    (∃ (i : Instr) (s t : State), i ∉ blockCommands ∧ s.fault = false ∧ exec i s = .next t ∧ t.fault = true) :=
  ⟨⟨.encBlock, ready (List.replicate 15 0), by decide, ⟨rfl, rfl⟩, rfl⟩,
    ⟨.encBlock, ready (List.replicate 16 0), by decide, ⟨rfl, rfl⟩, rfl⟩,
    ⟨.decBlock, ready (List.replicate 17 0), by decide, ⟨rfl, rfl⟩, rfl⟩,
    ⟨.ecbEnc, idle, _, by decide, rfl, rfl, rfl⟩⟩

/-- IV counts 0, 1, 15 and 17; a command without an IV that faults; an ECB command. -/
theorem witness_IvCountDecidesMissingOrMalformed :
    (∃ (i : Instr) (s : State), i ∈ chainedCommands ∧ Ready s ∧ s.ivcnt = 0) ∧
    (∃ (i : Instr) (s : State), i ∈ chainedCommands ∧ Ready s ∧ s.ivcnt = 1) ∧
    (∃ (i : Instr) (s : State), i ∈ chainedCommands ∧ Ready s ∧ s.ivcnt = 15) ∧
    (∃ (i : Instr) (s : State), i ∈ chainedCommands ∧ Ready s ∧ s.ivcnt = 17) ∧
    (∃ (i : Instr) (s t : State), i ∉ chainedCommands ∧ s.fault = false ∧ exec i s = .next t ∧ t.fault = true) ∧
    (∃ (i : Instr) (s : State), (i = .ecbEnc ∨ i = .ecbDec) ∧ Ready s) :=
  ⟨⟨.cfbEnc, ready [], by decide, ⟨rfl, rfl⟩, rfl⟩,
    ⟨.cbcEnc, { ready [] with ivbuf := [0], ivcnt := 1 }, by decide, ⟨rfl, rfl⟩, rfl⟩,
    ⟨.ctrDec, { ready [] with ivbuf := List.replicate 15 0, ivcnt := 15 }, by decide, ⟨rfl, rfl⟩, rfl⟩,
    ⟨.cfbDec, { ready [] with ivbuf := List.replicate 16 0, ivcnt := 17 }, by decide, ⟨rfl, rfl⟩, rfl⟩,
    ⟨.encBlock, idle, _, by decide, rfl, rfl, rfl⟩, ⟨.ecbDec, ready [], .inr rfl, rfl, rfl⟩⟩

/-- The ends of the illegal ranges of R95. -/
theorem witness_IllegalCommandFaults : ∀ v ∈ ([0x00, 0x07, 0x13, 0x16, 0x23, 0x26, 0x33, 0x36, 0xFF] : List Byte),
    illegalByte v ∧ ∃ (s : State) (rest : List Transaction), s.fault = false ∧ s.pending = .write 0 v :: rest := by
  intro v hv
  refine ⟨?_, pend [.write 0 v] idle, [], rfl, rfl⟩
  revert v
  unfold illegalByte
  decide

theorem witness_FaultStateIgnoresWritesAndFixesReads :
    (∃ (s : State) (rest : List Transaction) (off : BitVec 3) (v : Byte), s.fault = true ∧ s.pending = .write off v :: rest) ∧
    (∃ (s : State) (rest : List Transaction) (off : BitVec 3), s.fault = true ∧ s.pending = .read off :: rest) :=
  ⟨⟨pend [.write 4 1] faulted, _, _, _, rfl, rfl⟩, ⟨pend [.read 7] faulted, _, _, rfl, rfl⟩⟩

/-- Counts 15 and 16, and a faulted engine. -/
theorem witness_KeyAndIvPushesSaturate :
    (∃ (s : State) (v : Byte) (rest : List Transaction), s.pending = .write 4 v :: rest ∧ s.fault = false ∧ s.keycnt = 15) ∧
    (∃ (s : State) (v : Byte) (rest : List Transaction), s.pending = .write 4 v :: rest ∧ s.fault = true) ∧
    (∃ (s : State) (v : Byte) (rest : List Transaction), s.pending = .write 5 v :: rest ∧ s.fault = false ∧ s.ivcnt = 16) ∧
    (∃ (s : State) (v : Byte) (rest : List Transaction), s.pending = .write 5 v :: rest ∧ s.fault = true) :=
  ⟨⟨pend [.write 4 1] { idle with keybuf := List.replicate 15 0, keycnt := 15 }, _, _, rfl, rfl, rfl⟩,
    ⟨pend [.write 4 1] faulted, _, _, rfl, rfl⟩,
    ⟨pend [.write 5 1] { idle with ivbuf := List.replicate 16 0, ivcnt := 16 }, _, _, rfl, rfl, rfl⟩,
    ⟨pend [.write 5 1] faulted, _, _, rfl, rfl⟩⟩

/-- One byte below capacity, at capacity, and a faulted engine. -/
theorem witness_DataPushAppendsOrOverflows :
    (∃ (s : State) (v : Byte) (rest : List Transaction), s.pending = .write 6 v :: rest ∧ s.fault = false ∧ s.ibuf.length + 1 = s.maxMsgBytes) ∧
    (∃ (s : State) (v : Byte) (rest : List Transaction), s.pending = .write 6 v :: rest ∧ s.fault = false ∧ s.ibuf.length = s.maxMsgBytes) ∧
    (∃ (s : State) (v : Byte) (rest : List Transaction), s.pending = .write 6 v :: rest ∧ s.fault = true) :=
  ⟨⟨pend [.write 6 1] { idle with ibuf := List.replicate 31 0 }, _, _, rfl, rfl, rfl⟩,
    ⟨pend [.write 6 1] { idle with ibuf := List.replicate 32 0 }, _, _, rfl, rfl, rfl⟩,
    ⟨pend [.write 6 1] faulted, _, _, rfl, rfl⟩⟩

/-- The last byte, nothing left, and a faulted engine. -/
theorem witness_DoutPopsOneByte :
    (∃ (s : State) (rest : List Transaction) (v : Byte), s.pending = .read 7 :: rest ∧ s.fault = false ∧ s.obuf[s.ord]? = some v) ∧
    (∃ (s : State) (rest : List Transaction), s.pending = .read 7 :: rest ∧ s.fault = false ∧ s.ord = s.obuf.length) ∧
    (∃ (s : State) (rest : List Transaction), s.pending = .read 7 :: rest ∧ s.fault = true) :=
  ⟨⟨pend [.read 7] { idle with obuf := [5, 6], ord := 1 }, _, 6, rfl, rfl, rfl⟩,
    ⟨pend [.read 7] { idle with obuf := [5, 6], ord := 2 }, _, rfl, rfl, rfl⟩,
    ⟨pend [.read 7] faulted, _, rfl, rfl⟩⟩

theorem witness_StatusReadsAndReadOnlyWritesHaveNoEffect :
    (∃ (s : State) (rest : List Transaction) (off : BitVec 3) (v : Byte), s.fault = false ∧ s.pending = .write off v :: rest ∧ off = 7) ∧
    (∃ (s : State) (rest : List Transaction), s.fault = false ∧ s.pending = .read 1 :: rest) ∧ (∃ (s : State) (rest : List Transaction), s.fault = false ∧ s.pending = .read 2 :: rest) ∧
    (∃ (s : State) (rest : List Transaction), s.fault = false ∧ s.pending = .read 3 :: rest) ∧ (∃ (s : State) (rest : List Transaction), s.fault = false ∧ s.pending = .read 0 :: rest) :=
  ⟨⟨pend [.write 7 1] idle, _, _, _, rfl, rfl, rfl⟩, ⟨pend [.read 1] idle, _, rfl, rfl⟩,
    ⟨pend [.read 2] idle, _, rfl, rfl⟩, ⟨pend [.read 3] idle, _, rfl, rfl⟩, ⟨pend [.read 0] idle, _, rfl, rfl⟩⟩

theorem witness_ResetEventSetsTheResetValues : ∃ (s : State) (rest : List Transaction), s.pending = .reset :: rest ∧ s.fault = true :=
  ⟨pend [.reset] faulted, _, rfl, rfl⟩

/-- Seventeen key bytes, seventeen IV bytes, as many data bytes as fit. -/
theorem witness_PushedBytesAreStagedInOrder :
    (∃ (s : State) (d : List Byte) (rest : List Transaction), s.fault = false ∧ s.keybuf = [] ∧ s.keycnt = 0 ∧
      d.length = 17 ∧ s.pending = d.map (.write 4 ·) ++ rest) ∧
    (∃ (s : State) (d : List Byte) (rest : List Transaction), s.fault = false ∧ s.ivbuf = [] ∧ s.ivcnt = 0 ∧
      d.length = 17 ∧ s.pending = d.map (.write 5 ·) ++ rest) ∧
    (∃ (s : State) (d : List Byte) (rest : List Transaction), s.fault = false ∧ s.ibuf = [] ∧
      d.length = s.maxMsgBytes ∧ s.pending = d.map (.write 6 ·) ++ rest) :=
  ⟨⟨pend ((List.replicate 17 1).map (.write 4 ·) ++ []) idle, List.replicate 17 1, [], rfl, rfl, rfl, rfl, rfl⟩,
    ⟨pend ((List.replicate 17 1).map (.write 5 ·) ++ []) idle, List.replicate 17 1, [], rfl, rfl, rfl, rfl, rfl⟩,
    ⟨pend ((List.replicate 32 1).map (.write 6 ·) ++ []) idle, List.replicate 32 1, [], rfl, rfl, rfl, rfl⟩⟩

theorem witness_DrainReturnsTheOutputInOrder : ∃ (s : State) (k : Nat) (rest : List Transaction), s.fault = false ∧
    s.ord = 0 ∧ s.obuf = [5, 6] ∧ s.pending = List.replicate (s.obuf.length + k) (.read 7) ++ rest :=
  ⟨pend (List.replicate 3 (.read 7) ++ [.reset]) { idle with obuf := [5, 6] }, 1, [.reset], rfl, rfl, rfl, rfl⟩

theorem witness_TablesMeetTheirConstruction : (1 ≤ 1 ∧ 1 ≤ 9) ∧ 1 ≤ 9 ∧ 9 ≤ 9 := by decide

theorem witness_RoundKeysFollowTheSchedule : ∃ key key' : Block, expand key = expand key' := ⟨iv0, iv0, rfl⟩

/-- A key of 16 bytes, one of 15, one of 17 or more. -/
theorem witness_LoadKeyInstallsTheExpandedKey :
    (∃ (s : State) (key : Block), s.fault = false ∧ s.keycnt = 16 ∧ s.keybuf = key.toList) ∧
    (∃ s : State, s.fault = false ∧ s.keycnt = 15) ∧ (∃ s : State, s.fault = false ∧ s.keycnt = 17) :=
  ⟨⟨{ idle with keybuf := iv0.toList, keycnt := 16 }, iv0, rfl, rfl, rfl⟩,
    ⟨{ idle with keybuf := List.replicate 15 0, keycnt := 15 }, rfl, rfl⟩,
    ⟨{ idle with keybuf := List.replicate 16 0, keycnt := 17 }, rfl, rfl⟩⟩

theorem witness_RoundStepsActByEntries : ∃ (s : Block) (c : Fin 4) (a0 a1 a2 a3 : Byte),
    a0 = s[4 * c.val] ∧ a1 = s[4 * c.val + 1] ∧ a2 = s[4 * c.val + 2] ∧ a3 = s[4 * c.val + 3] :=
  ⟨iv0, 3, _, _, _, _, rfl, rfl, rfl, rfl⟩

/-- Two equal blocks at indices 0 and 1, the last one allowed. -/
theorem witness_DecryptInvertsEncrypt : ∃ (d : List Byte) (i j : Nat), i ≠ j ∧ i < d.length / 16 ∧ j < d.length / 16 ∧
    blockAt d i = blockAt d j :=
  ⟨List.replicate 32 7, 0, 1, by decide, by decide, by decide, by decide +kernel⟩

theorem witness_BlockCommandsReturnTheBlock : ∃ (s : State) (b : Block), Ready s ∧ s.ibuf = Vector.toList (n := 16) b :=
  ⟨ready iv0.toList, iv0, ⟨rfl, rfl⟩, rfl⟩

/-- No valid padding behind the empty string; sixteen bytes 0x10 are a whole padding block. -/
theorem witness_PaddingLaws :
    (¬ ∃ plain : List Byte, IsPaddingOf plain []) ∧ ∃ d plain : List Byte, d.length % 16 = 0 ∧ removePadding d = .ok plain := by
  refine ⟨?_, List.replicate 16 0x10, [], rfl, by decide⟩
  rintro ⟨plain, n, h1, _, h⟩
  have hl := congrArg List.length h
  simp [padBytes] at hl
  omega

theorem witness_EcbEncEncryptsEveryBlock : ∃ (s : State) (i : Nat), Ready s ∧ s.ibuf.length = 16 ∧ i = 1 ∧ i < s.ibuf.length / 16 + 1 :=
  ⟨ready (List.replicate 16 0), 1, ⟨rfl, rfl⟩, rfl, rfl, by decide⟩

theorem witness_CbcEncChainsCiphertext : ∃ (s : State) (iv : Block) (i : Nat), ReadyIv iv s ∧ i = 1 ∧ i < s.ibuf.length / 16 + 1 :=
  ⟨readyIv iv0 (List.replicate 16 0), iv0, 1, ⟨rfl, rfl, rfl, rfl⟩, rfl, by decide⟩

/-- 15, 0 and 32 bytes. -/
theorem witness_EcbDecDecryptsAndUnpads : (∃ s : State, Ready s ∧ s.ibuf.length = 15 ∧ s.ibuf.length % 16 ≠ 0) ∧
    (∃ s : State, Ready s ∧ s.ibuf.length = 0 ∧ s.ibuf.length % 16 = 0) ∧
    (∃ (s : State) (i : Nat), Ready s ∧ s.ibuf.length % 16 = 0 ∧ i = 1 ∧ i < s.ibuf.length / 16) :=
  ⟨⟨ready (List.replicate 15 0), ⟨rfl, rfl⟩, rfl, by decide⟩, ⟨ready [], ⟨rfl, rfl⟩, rfl, rfl⟩,
    ⟨ready (List.replicate 32 0), 1, ⟨rfl, rfl⟩, rfl, rfl, by decide⟩⟩

theorem witness_CbcDecDecryptsAndUnpads : (∃ (s : State) (iv : Block), ReadyIv iv s ∧ s.ibuf.length = 17 ∧ s.ibuf.length % 16 ≠ 0) ∧
    (∃ (s : State) (iv : Block), ReadyIv iv s ∧ s.ibuf.length = 0 ∧ s.ibuf.length % 16 = 0) ∧
    (∃ (s : State) (iv : Block) (i : Nat), ReadyIv iv s ∧ s.ibuf.length % 16 = 0 ∧ i = 1 ∧ i < s.ibuf.length / 16) :=
  ⟨⟨readyIv iv0 (List.replicate 17 0), iv0, ⟨rfl, rfl, rfl, rfl⟩, rfl, by decide⟩,
    ⟨readyIv iv0 [], iv0, ⟨rfl, rfl, rfl, rfl⟩, rfl, rfl⟩,
    ⟨readyIv iv0 (List.replicate 32 0), iv0, 1, ⟨rfl, rfl, rfl, rfl⟩, rfl, rfl, by decide⟩⟩

/-- A partial last block: byte 16 of 17. -/
theorem witness_CfbEncFeedsBackCiphertext : ∃ (s : State) (iv : Block) (j : Nat), ReadyIv iv s ∧ j = 16 ∧ j < s.ibuf.length :=
  ⟨readyIv iv0 (List.replicate 17 0), iv0, 16, ⟨rfl, rfl, rfl, rfl⟩, rfl, by decide⟩

theorem witness_CfbDecFeedsBackItsInput : ∃ (s : State) (iv : Block) (j : Nat), ReadyIv iv s ∧ j = 15 ∧ j < s.ibuf.length :=
  ⟨readyIv iv0 (List.replicate 16 0), iv0, 15, ⟨rfl, rfl, rfl, rfl⟩, rfl, by decide⟩

theorem witness_CtrXorsTheCounterKeystream :
    ∃ (i : Instr) (s : State) (iv : Block) (j : Nat), (i = .ctrEnc ∨ i = .ctrDec) ∧ ReadyIv iv s ∧ j = 31 ∧ j < s.ibuf.length :=
  ⟨Instr.ctrDec, readyIv iv0 (List.replicate 32 0), iv0, 31, .inr rfl, ⟨rfl, rfl, rfl, rfl⟩, rfl, by decide⟩

theorem witness_CounterIsBigEndianModulo128 : (2 ^ 128 - 1 : Nat) < 2 ^ 128 := by decide

theorem readyIv_fields (iv : Block) (m : List Byte) : Ready (readyIv iv m) ∧ (readyIv iv m).rk = keysV10 ∧
    (readyIv iv m).ibuf = m ∧ ReadyIv iv (readyIv iv m) := ⟨⟨rfl, rfl⟩, rfl, rfl, rfl, rfl, rfl, rfl⟩

theorem exec_ctrEnc_ready {s : State} (h : s.ctxValid = true) (hiv : s.ivcnt = 16) :
    exec .ctrEnc s = .next (complete (.ok (ctrCrypt s.rk (stagedIv s) 0 (blocksOf (message s)))) s) :=
  congrArg Host.Outcome.next (modePrologue_ready h hiv)

theorem ready_fields (m : List Byte) : Ready (ready m) ∧ (ready m).rk = keysV10 ∧ (ready m).ibuf = m ∧
    (ready m).ivcnt = 0 := ⟨⟨rfl, rfl⟩, rfl, rfl, rfl⟩

theorem exec_ecbEnc_ready {s : State} (h : s.ctxValid = true) :
    exec .ecbEnc s = .next (complete (.ok (ecbEncrypt s.rk (blocksOf (addPadding (message s))))) s) :=
  congrArg Host.Outcome.next (modePrologue_ecb h)

/-- The round trip of one byte in ECB, with no IV byte staged at either command. -/
theorem witness_ModesRoundTrip_ecb : ∃ p ∈ modePairs, p.1 = .ecbEnc ∧ p.2 = .ecbDec ∧ ∃ s t u : State, Ready s ∧
    s.ivcnt = 0 ∧ exec p.1 s = .next t ∧ Ready u ∧ u.ivcnt = 0 ∧ u.rk = s.rk ∧ u.ibuf = t.obuf := by
  obtain ⟨h1, h2, _, h4⟩ := ready_fields [0x6B]
  refine ⟨(.ecbEnc, .ecbDec), by decide, rfl, rfl, ready [0x6B], _, ready _, h1, h4, exec_ecbEnc_ready h1.2,
    (ready_fields _).1, (ready_fields _).2.2.2, ?_, (ready_fields _).2.2.1⟩
  rw [h2]
  exact (ready_fields _).2.1

/-- The round trip of one CTR byte: both states. -/
theorem witness_ModesRoundTrip : ∃ p ∈ modePairs, ∃ (s : State) (iv : Block) (t u : State), Ready s ∧ ReadyIv iv s ∧
    exec p.1 s = .next t ∧ Ready u ∧ u.rk = s.rk ∧ u.ibuf = t.obuf ∧ ReadyIv iv u := by
  obtain ⟨h1, h2, _, h4⟩ := readyIv_fields iv0 [0x6B]
  refine ⟨(.ctrEnc, .ctrDec), by decide, readyIv iv0 [0x6B], iv0, _, readyIv iv0 _, h1, h4,
    exec_ctrEnc_ready h1.2 h4.2.2.1, (readyIv_fields iv0 _).1, ?_, (readyIv_fields iv0 _).2.2.1, (readyIv_fields iv0 _).2.2.2⟩
  rw [h2]
  exact (readyIv_fields iv0 _).2.1

/-- An error, an OK, and empty messages. -/
theorem witness_ModeOutputLengths :
    (∃ (i : Instr) (s t : State), Ready s ∧ exec i s = .next t ∧ t.fault = false ∧ t.result ≠ 0x00) ∧
    (∃ (i : Instr) (s t : State), Ready s ∧ exec i s = .next t ∧ t.fault = false ∧ t.result = 0x00 ∧ i = .ecbEnc) ∧
    (∃ (i : Instr) (s : State), Ready s ∧ s.ibuf = [] ∧ i ∈ chainedCommands ∧ s.ivcnt = 16) :=
  ⟨⟨.cfbEnc, ready [], _, ⟨rfl, rfl⟩, rfl, rfl, by decide⟩, ⟨.ecbEnc, ready [], _, ⟨rfl, rfl⟩, rfl, rfl, rfl, rfl⟩,
    ⟨.cbcDec, readyIv iv0 [], ⟨rfl, rfl⟩, rfl, by decide, rfl⟩⟩

theorem witness_FlushEmptiesTheBuffers :
    (∃ s : State, s.fault = false) ∧ (∃ (s : State) (rest : List Transaction), s.fault = true ∧ s.pending = .write 0 0x06 :: rest) :=
  ⟨⟨idle, rfl⟩, ⟨pend [.write 0 0x06] faulted, [], rfl, rfl⟩⟩

end Sys2Proof.Tests
end

/-! SUPPORT. Output lengths of the commands that pad or unpad, and the byte of a decoded command. -/

namespace Sys2Proof.Machine

/-! ### Output lengths (R195) -/

theorem nblocks_addPadding (d : List Byte) : nblocks (addPadding d).length = d.length / 16 + 1 := by
  rw [addPadding_length]; unfold nblocks; omega

theorem ecbEncrypt_addPadding_length (rk : RoundKeys) (d : List Byte) :
    (ecbEncrypt rk (blocksOf (addPadding d))).length = 16 * (d.length / 16 + 1) := by
  rw [ecbEncrypt_length, blocksOf_length, nblocks_addPadding]

theorem cbcEncrypt_addPadding_length (rk : RoundKeys) (iv : Block) (d : List Byte) :
    (cbcEncrypt rk iv (blocksOf (addPadding d))).length = 16 * (d.length / 16 + 1) := by
  rw [cbcEncrypt_length, blocksOf_length, nblocks_addPadding]

theorem ecbDecrypt_whole_length (rk : RoundKeys) {d : List Byte} (h : d.length % 16 = 0) :
    (ecbDecrypt rk (blocksOf d)).length = d.length := by
  rw [ecbDecrypt_length, blocksOf_length, nblocks_whole h]

theorem cbcDecrypt_whole_length (rk : RoundKeys) (iv : Block) {d : List Byte} (h : d.length % 16 = 0) :
    (cbcDecrypt rk iv (blocksOf d)).length = d.length := by
  rw [cbcDecrypt_length, blocksOf_length, nblocks_whole h]

theorem replyBytes_removePadding_length_le (d : List Byte) : (replyBytes (removePadding d)).length ≤ d.length := by
  cases h : removePadding d with
  | ok plain =>
    obtain ⟨l, -, -, hlen⟩ := removePadding_length h
    simp only [replyBytes]; omega
  | error e => simp [replyBytes]

/-! ### Codes (R231, R236) and command bytes (R92) -/

theorem replyCode_le (r : Reply) : (replyCode r).toNat ≤ 4 := by
  cases r with
  | ok bytes => simp [replyCode]
  | error e => cases e <;> decide

theorem causeByte_range (c : FaultCause) : 1 ≤ (causeByte c).toNat ∧ (causeByte c).toNat ≤ 5 := by
  cases c <;> decide

/-- The only byte that decodes to `LOAD_KEY` (R92). -/
theorem eq_of_decode_loadKey {v : Byte} (h : decode v = .ok .loadKey) : v = 0x01 := by
  revert v; decide +kernel

/-! ### Reads leave the context -/

@[simp] theorem popDout_rk (s : State) : (popDout s).rk = s.rk := by
  rcases popDout_cases s with ⟨-, -, h⟩ | ⟨-, h⟩ <;> rw [h]

@[simp] theorem popDout_ctxValid (s : State) : (popDout s).ctxValid = s.ctxValid := by
  rcases popDout_cases s with ⟨-, -, h⟩ | ⟨-, h⟩ <;> rw [h]

@[simp] theorem readReg_rk (r : HostReg) (s : State) : (readReg r s).rk = s.rk := by
  rcases readEffect_cases r s with h | ⟨-, h⟩ <;> simp [readReg, h]

@[simp] theorem readReg_ctxValid (r : HostReg) (s : State) : (readReg r s).ctxValid = s.ctxValid := by
  rcases readEffect_cases r s with h | ⟨-, h⟩ <;> simp [readReg, h]

end Sys2Proof.Machine

/-! SUPPORT. Each shared operation keeps the invariant of R42, then each command, then each event. -/

namespace Sys2Proof.Machine

variable {s : State}

/-! ### Shared operations -/

/-- Nothing of the hidden state is asked for: a fault leaves it unspecified (R237). -/
theorem raiseFault_inv (c : FaultCause) (hs : s.Inv) : (raiseFault c s).Inv where
  live := by simp
  faulted _ := causeByte_range c
  result := hs.result
  capacity := hs.capacity

/-- The free value of `RK` does no harm: there is no context after a reset (R260). -/
theorem resetEvent_inv (hs : s.Inv) : (resetEvent s).Inv where
  live _ := { keycnt := by simp, keybuf := by simp, ivcnt := by simp, ivbuf := by simp, icnt := by simp,
              ord := by simp, ocnt := by simp, context := by simp, cause := by simp }
  faulted := by simp
  result := by simp
  capacity := hs.capacity

theorem complete_inv {r : Reply} (hs : s.Inv) (hlen : (replyBytes r).length ≤ s.maxMsgBytes + 16) :
    (complete r s).Inv where
  live hf := { keycnt := by simp, keybuf := by simp, ivcnt := by simp, ivbuf := by simp, icnt := by simp,
               ord := by simp, ocnt := hlen, context := (hs.live hf).context, cause := (hs.live hf).cause }
  faulted := hs.faulted
  result := replyCode_le r
  capacity := hs.capacity

theorem complete_error_inv (e : ErrorCode) (hs : s.Inv) : (complete (.error e) s).Inv :=
  complete_inv hs (by simp [replyBytes])

theorem installContext_expand_inv (key : Block) (hs : s.Inv) : (installContext (expand key) s).Inv where
  live hf := { hs.live hf with context := fun _ => ⟨key, rfl⟩ }
  faulted := hs.faulted
  result := hs.result
  capacity := hs.capacity

theorem pushKey_inv (v : Byte) (hs : s.Inv) : (pushKey v s).Inv where
  live hf := { hs.live hf with keycnt := bumpCount_le _, keybuf := storeByte_length v (hs.live hf).keybuf }
  faulted := hs.faulted
  result := hs.result
  capacity := hs.capacity

theorem pushIv_inv (v : Byte) (hs : s.Inv) : (pushIv v s).Inv where
  live hf := { hs.live hf with ivcnt := bumpCount_le _, ivbuf := storeByte_length v (hs.live hf).ivbuf }
  faulted := hs.faulted
  result := hs.result
  capacity := hs.capacity

/-- A byte is staged only below capacity, so `ICNT` stays within it (R66). -/
theorem pushData_inv (v : Byte) (hs : s.Inv) : (pushData v s).Inv := by
  rcases pushData_cases v s with ⟨-, h⟩ | ⟨hne, h⟩ <;> rw [h]
  · exact raiseFault_inv _ hs
  · have room (hf : s.fault = false) : (s.ibuf ++ [v]).length ≤ s.maxMsgBytes := by
      have hle := (hs.live hf).icnt
      simp only [icnt_eq_length, List.length_append, List.length_singleton] at *
      omega
    exact { live := fun hf => { hs.live hf with icnt := room hf },
            faulted := hs.faulted, result := hs.result, capacity := hs.capacity }

/-- `ORD` advances only below `OCNT` (R67). -/
theorem popDout_inv (hs : s.Inv) : (popDout s).Inv := by
  rcases popDout_cases s with ⟨-, hlt, h⟩ | ⟨-, h⟩ <;> rw [h]
  · exact { live := fun hf => { hs.live hf with ord := hlt },
            faulted := hs.faulted, result := hs.result, capacity := hs.capacity }
  · exact hs

theorem noteRead_inv (v : Byte) (hs : s.Inv) : (noteRead v s).Inv where
  live hf := { hs.live hf with }
  faulted := hs.faulted
  result := hs.result
  capacity := hs.capacity

theorem withPending_inv (p : List Transaction) (hs : s.Inv) : (withPending p s).Inv where
  live hf := { hs.live hf with }
  faulted := hs.faulted
  result := hs.result
  capacity := hs.capacity

/-! ### Prologues: the invariant holds after one when it holds after its body -/

theorem blockPrologue_inv {body : State} (hs : s.Inv) (hb : body.Inv) : (blockPrologue s body).Inv := by
  rcases blockPrologue_cases s body with ⟨-, h⟩ | ⟨-, -, h⟩ | ⟨-, -, h⟩ <;> rw [h]
  · exact raiseFault_inv _ hs
  · exact raiseFault_inv _ hs
  · exact hb

theorem modePrologue_inv (m : Mode) {body : State} (hs : s.Inv) (hb : body.Inv) : (modePrologue m s body).Inv := by
  rcases modePrologue_cases m s body with ⟨-, h⟩ | ⟨-, -, -, h⟩ | ⟨-, -, -, -, h⟩ | ⟨-, -, h⟩ <;> rw [h]
  · exact raiseFault_inv _ hs
  · exact complete_error_inv _ hs
  · exact raiseFault_inv _ hs
  · exact hb

theorem wholeBlocks_inv {body : State} (hs : s.Inv) (hb : s.ibuf.length % 16 = 0 → body.Inv) :
    (wholeBlocks s body).Inv := by
  by_cases h : s.icnt % 16 = 0
  · rw [wholeBlocks_pass h]; exact hb h
  · rw [wholeBlocks_reject h]; exact complete_error_inv _ hs

/-! ### Commands -/

theorem complete_block_inv (b : Block) (hs : s.Inv) : (complete (.ok b.toList) s).Inv :=
  complete_inv hs (by simp [replyBytes])

/-- A message output no longer than the padded message is within `MAX_MSG_BYTES + 16` (R195). -/
theorem complete_message_inv {r : Reply} (hs : s.Inv) (hf : s.fault = false)
    (hr : (replyBytes r).length ≤ 16 * (s.ibuf.length / 16 + 1)) : (complete r s).Inv := by
  have hin : s.ibuf.length ≤ s.maxMsgBytes := (hs.live hf).icnt
  exact complete_inv hs (by omega)

/-- As `complete_message_inv`, for an output no longer than the message itself. -/
theorem complete_unpadded_inv {r : Reply} (hs : s.Inv) (hf : s.fault = false)
    (hr : (replyBytes r).length ≤ s.ibuf.length) : (complete r s).Inv :=
  complete_message_inv hs hf (by omega)

theorem exec_inv {i : Instr} {t : State} (hs : s.Inv) (hf : s.fault = false) (h : exec i s = .next t) : t.Inv := by
  cases i <;> cases h
  case loadKey =>
    split
    · exact complete_error_inv _ hs
    · exact complete_inv (installContext_expand_inv _ hs) (by simp [replyBytes])
  case encBlock => exact blockPrologue_inv hs (complete_block_inv _ hs)
  case decBlock => exact blockPrologue_inv hs (complete_block_inv _ hs)
  case flush => exact complete_inv hs (by simp [replyBytes])
  case ecbEnc =>
    exact modePrologue_inv _ hs (complete_message_inv hs hf (ecbEncrypt_addPadding_length _ _).le)
  case cbcEnc =>
    exact modePrologue_inv _ hs (complete_message_inv hs hf (cbcEncrypt_addPadding_length _ _ _).le)
  case ecbDec =>
    exact modePrologue_inv _ hs (wholeBlocks_inv hs fun hw => complete_unpadded_inv hs hf
      ((replyBytes_removePadding_length_le _).trans (ecbDecrypt_whole_length _ hw).le))
  case cbcDec =>
    exact modePrologue_inv _ hs (wholeBlocks_inv hs fun hw => complete_unpadded_inv hs hf
      ((replyBytes_removePadding_length_le _).trans (cbcDecrypt_whole_length _ _ hw).le))
  case cfbEnc => exact modePrologue_inv _ hs (complete_unpadded_inv hs hf (cfbEncrypt_length _ _ _).le)
  case cfbDec => exact modePrologue_inv _ hs (complete_unpadded_inv hs hf (cfbDecrypt_length _ _ _).le)
  case ctrEnc => exact modePrologue_inv _ hs (complete_unpadded_inv hs hf (ctrCrypt_length _ _ _ _).le)
  case ctrDec => exact modePrologue_inv _ hs (complete_unpadded_inv hs hf (ctrCrypt_length _ _ _ _).le)

/-! ### Events -/

theorem readReg_inv (r : HostReg) (hs : s.Inv) : (readReg r s).Inv := by
  refine noteRead_inv _ ?_
  rcases readEffect_cases r s with h | ⟨-, h⟩ <;> rw [h]
  · exact hs
  · exact popDout_inv hs

theorem writeReg_inv {off : BitVec 3} {v : Byte} {t : State} (hs : s.Inv) (h : writeReg (regOf off) v s = .next t) :
    t.Inv := by
  rcases writeReg_next_cases h with ⟨-, rfl⟩ |
    ⟨hf, ⟨-, i, -, hx⟩ | ⟨-, -, rfl⟩ | ⟨-, rfl⟩ | ⟨-, rfl⟩ | ⟨-, rfl⟩ | ⟨-, rfl⟩⟩
  · exact hs
  · exact exec_inv hs hf hx
  · exact raiseFault_inv _ hs
  · exact pushKey_inv v hs
  · exact pushIv_inv v hs
  · exact pushData_inv v hs
  · exact hs

end Sys2Proof.Machine

namespace Sys2Proof.Proofs

open Sys2Proof Sys2Proof.Machine

/-- Settles O6: an idle step keeps the state, and a step with something pending keeps the invariant by its event. -/
theorem stepKeepsEngineInvariant : Obligations.StepKeepsEngineInvariant := by
  intro s t hs h
  rcases step_cases h with ⟨-, rfl⟩ | ⟨e, rest, -, ⟨-, rfl⟩ | ⟨off, -, rfl⟩ | ⟨off, v, -, hw⟩⟩
  · exact hs
  · exact resetEvent_inv (withPending_inv rest hs)
  · exact readReg_inv _ (withPending_inv rest hs)
  · exact writeReg_inv (withPending_inv rest hs) hw

/-- Settles O7. The bound on MAX_MSG_BYTES is the only clause that is not a fixed value: it is the open parameter. -/
theorem resetStateHasEngineInvariant : Obligations.ResetStateHasEngineInvariant where
  live _ := { keycnt := by decide, keybuf := rfl, ivcnt := by decide, ivbuf := rfl, icnt := Nat.zero_le _,
              ord := le_rfl, ocnt := Nat.zero_le _, context := (nomatch ·), cause := rfl }
  faulted := (nomatch ·)
  result := by decide
  capacity := Nat.le_add_left 16 Config.extraMsgBytes

end Sys2Proof.Proofs

/-! SUPPORT. What leaves `RK` and `CTX_VALID` as they are (R26, R27, R221). -/

namespace Sys2Proof.Machine

variable {s t : State}

/-- A command that does not fault keeps the context, but for a `LOAD_KEY` with 16 key bytes (R26, R221). -/
theorem exec_context {i : Instr} (h : exec i s = .next t) (ht : t.fault = false) :
    (i = .loadKey ∧ s.keycnt = 16 ∧ t.ctxValid = true) ∨ (t.rk = s.rk ∧ t.ctxValid = s.ctxValid) := by
  rcases exec_next_cases h with ⟨r, rfl⟩ | ⟨hi, hk, rfl⟩ | ⟨c, rfl⟩
  · exact .inr ⟨rfl, rfl⟩
  · exact .inl ⟨hi, hk, rfl⟩
  · cases ht

/-- A write that does not fault keeps the context, but for the byte of `LOAD_KEY` at `CMD` with 16 key bytes. -/
theorem writeReg_context {off : BitVec 3} {v : Byte} (h : writeReg (regOf off) v s = .next t) (ht : t.fault = false) :
    (off = 0 ∧ v = 0x01 ∧ s.keycnt = 16 ∧ t.ctxValid = true) ∨ (t.rk = s.rk ∧ t.ctxValid = s.ctxValid) := by
  rcases writeReg_next_cases h with ⟨-, rfl⟩ |
    ⟨-, ⟨hoff, i, hd, hx⟩ | ⟨-, -, rfl⟩ | ⟨-, rfl⟩ | ⟨-, rfl⟩ | ⟨-, rfl⟩ | ⟨-, rfl⟩⟩
  · exact .inr ⟨rfl, rfl⟩
  · rcases exec_context hx ht with ⟨rfl, hk, hc⟩ | hkeep
    · exact .inl ⟨hoff, eq_of_decode_loadKey hd, hk, hc⟩
    · exact .inr hkeep
  · cases ht
  · exact .inr ⟨rfl, rfl⟩
  · exact .inr ⟨rfl, rfl⟩
  · rcases pushData_cases v s with ⟨-, hp⟩ | ⟨-, hp⟩ <;> rw [hp] at ht ⊢
    · cases ht
    · exact .inr ⟨rfl, rfl⟩
  · exact .inr ⟨rfl, rfl⟩

end Sys2Proof.Machine

namespace Sys2Proof.Proofs

open Sys2Proof Sys2Proof.Machine

/-- Settles O9: of the events other than a reset only a write can change the context, and only as `LOAD_KEY`. -/
theorem contextChangesOnlyByLoadKeyOrReset : Obligations.ContextChangesOnlyByLoadKeyOrReset := by
  intro s t _ h ht
  rcases step_cases h with ⟨-, rfl⟩ | ⟨e, rest, hp, ⟨rfl, -⟩ | ⟨off, -, rfl⟩ | ⟨off, v, rfl, hw⟩⟩
  · exact .inr (.inr ⟨rfl, rfl⟩)
  · exact .inl ⟨rest, hp⟩
  · exact .inr (.inr ⟨by simp, by simp⟩)
  · rcases writeReg_context hw ht with ⟨rfl, rfl, hk, hc⟩ | ⟨hrk, hctx⟩
    · exact .inr (.inl ⟨rest, hp, hk, hc⟩)
    · exact .inr (.inr ⟨hrk, hctx⟩)

end Sys2Proof.Proofs

/-! SUPPORT. What one event is at the level of the shared operations (R60, R63 to R68), and runs made of such steps. -/

namespace Sys2Proof.Machine

variable {s t : State} {rest : List Transaction} {off : BitVec 3} {v : Byte}

theorem withPending_eq_self (h : s.pending = rest) : withPending rest s = s := by
  subst h; rfl

/-! ### Writes -/

/-- A write in the fault state only takes its transaction off (R237, R243). -/
theorem step_write_faulted (hp : s.pending = .write off v :: rest) (hf : s.fault = true) :
    step s = .next (withPending rest s) :=
  (step_write hp).trans (writeReg_faulted (s := withPending rest s) hf _ _)

/-- A write to a live engine has its register's effect (R62 to R68). -/
theorem step_write_live (hp : s.pending = .write off v :: rest) (hf : s.fault = false) :
    step s = writeLive (regOf off) v (withPending rest s) :=
  (step_write hp).trans (writeReg_live (s := withPending rest s) hf _ _)

theorem step_pushKey (hp : s.pending = .write 4 v :: rest) (hf : s.fault = false) :
    step s = .next (pushKey v (withPending rest s)) :=
  step_write_live hp hf

theorem step_pushIv (hp : s.pending = .write 5 v :: rest) (hf : s.fault = false) :
    step s = .next (pushIv v (withPending rest s)) :=
  step_write_live hp hf

theorem step_pushData (hp : s.pending = .write 6 v :: rest) (hf : s.fault = false) :
    step s = .next (pushData v (withPending rest s)) :=
  step_write_live hp hf

/-- A byte that decodes runs its command (R68). -/
theorem writeCmd_ok {i : Instr} (hd : decode v = .ok i) : writeCmd v s = exec i s := by
  simp only [writeCmd, hd]

theorem pushData_below (h : s.ibuf.length ≠ s.maxMsgBytes) : pushData v s = { s with ibuf := s.ibuf ++ [v] } :=
  if_neg h

theorem pushData_full (h : s.ibuf.length = s.maxMsgBytes) : pushData v s = raiseFault .bufferOverflow s :=
  if_pos h

/-! ### Reads -/

theorem step_readDout (hp : s.pending = .read 7 :: rest) : step s = .next (readReg .dout (withPending rest s)) :=
  step_read hp

/-- A read of `DOUT` takes the byte at `ORD` where one is left in a live engine (R67). -/
theorem readReg_dout_some (hf : s.fault = false) (hv : s.obuf[s.ord]? = some v) :
    readReg .dout s = { s with reads := s.reads ++ [v], ord := s.ord + 1 } := by
  have hlt : s.ord < s.ocnt := (List.getElem?_eq_some_iff.mp hv).1
  have hbyte : doutByte s = v := by simp [doutByte, hf, hv]
  have hpop : popDout s = { s with ord := s.ord + 1 } := by simp only [popDout, hf, hlt]; rfl
  simp only [readReg, readByte, readEffect, hbyte, hpop, noteRead]

/-- A read of `DOUT` returns 0x00 and pops nothing in the fault state or with nothing left (R67). -/
theorem readReg_dout_none (h : s.fault = true ∨ s.obuf.length ≤ s.ord) : readReg .dout s = noteRead 0x00 s := by
  have hbyte : doutByte s = 0x00 := by
    rcases h with hf | hle
    · simp [doutByte, hf]
    · simp [doutByte, hle]
  have hpop : popDout s = s := by
    rcases h with hf | hle
    · simp [popDout, hf]
    · simp [popDout, hle.not_gt]
  simp only [readReg, readByte, readEffect, hbyte, hpop]

/-- A read of another register only gives the host its byte (R63, R71). -/
theorem readReg_of_ne_dout {r : HostReg} (h : r ≠ .dout) : readReg r s = noteRead (readByte r s) s := by
  rcases readEffect_cases r s with he | ⟨hr, -⟩
  · rw [readReg, he]
  · exact absurd hr h

theorem regOf_ne_dout (h : off ≠ 7) : regOf off ≠ .dout := fun hr => h (by rw [← offsetOf_regOf off, hr]; rfl)

/-- `STATUS` of a live engine has `CTX_VALID` in bit 0, `OAVAIL` in bit 1 and nothing above (R29). -/
theorem statusByte_bits (hf : s.fault = false) :
    (statusByte s).getLsbD 0 = s.ctxValid ∧ (statusByte s).getLsbD 1 = oavail s ∧
      ∀ k, 2 ≤ k → (statusByte s).getLsbD k = false := by
  have high {b : Byte} (hb : b.toNat < 2 ^ 2) {k : Nat} (hk : 2 ≤ k) : b.getLsbD k = false :=
    Nat.testBit_lt_two_pow (hb.trans_le (Nat.pow_le_pow_right Nat.two_pos hk))
  simp only [statusByte, hf]
  cases s.ctxValid <;> cases oavail s
  · exact ⟨rfl, rfl, fun _ => high (by decide)⟩
  · exact ⟨rfl, rfl, fun _ => high (by decide)⟩
  · exact ⟨rfl, rfl, fun _ => high (by decide)⟩
  · exact ⟨rfl, rfl, fun _ => high (by decide)⟩

/-! ### The model's own fields: capacity, events to come, past reads -/

/-- `t` has the capacity, the events to come and the past reads of `s` (log 1, log 2, log 3). -/
structure SameBus (s t : State) : Prop where
  maxMsgBytes : t.maxMsgBytes = s.maxMsgBytes
  pending : t.pending = s.pending
  reads : t.reads = s.reads

theorem exec_sameBus (i : Instr) (s : State) : ∃ t, exec i s = .next t ∧ SameBus s t := by
  rcases exec_cases i s with ⟨r, h⟩ | ⟨-, -, h⟩ | ⟨c, h⟩
  · exact ⟨_, h, rfl, rfl, rfl⟩
  · exact ⟨_, h, rfl, rfl, rfl⟩
  · exact ⟨_, h, rfl, rfl, rfl⟩

theorem writeCmd_sameBus (v : Byte) (s : State) : ∃ t, writeCmd v s = .next t ∧ SameBus s t := by
  rcases writeCmd_cases v s with ⟨i, -, h⟩ | ⟨-, h⟩
  · rw [h]; exact exec_sameBus i s
  · exact ⟨_, h, rfl, rfl, rfl⟩

theorem pushData_sameBus (v : Byte) (s : State) : SameBus s (pushData v s) := by
  rcases pushData_cases v s with ⟨-, h⟩ | ⟨-, h⟩ <;> rw [h]
  · exact ⟨rfl, rfl, rfl⟩
  · exact ⟨rfl, rfl, rfl⟩

/-- Every write answers a next state, and gives the host no byte (R60). -/
theorem writeReg_sameBus (r : HostReg) (v : Byte) (s : State) : ∃ t, writeReg r v s = .next t ∧ SameBus s t := by
  cases hf : s.fault
  · rw [writeReg_live hf]
    rcases writeLive_cases r v s with ⟨-, h⟩ | ⟨-, h⟩ | ⟨-, h⟩ | ⟨-, h⟩ | ⟨-, h⟩
    · rw [h]; exact writeCmd_sameBus v s
    · exact ⟨_, h, rfl, rfl, rfl⟩
    · exact ⟨_, h, rfl, rfl, rfl⟩
    · exact ⟨_, h, pushData_sameBus v s⟩
    · exact ⟨_, h, rfl, rfl, rfl⟩
  · exact ⟨s, writeReg_faulted hf r v, rfl, rfl, rfl⟩

/-- Apart from the byte the host receives, a read touches none of these fields (R60, R67). -/
theorem readEffect_sameBus (r : HostReg) (s : State) : SameBus s (readEffect r s) := by
  rcases readEffect_cases r s with h | ⟨-, h⟩ <;> rw [h]
  · exact ⟨rfl, rfl, rfl⟩
  · rcases popDout_cases s with ⟨-, -, hpop⟩ | ⟨-, hpop⟩ <;> rw [hpop]
    · exact ⟨rfl, rfl, rfl⟩
    · exact ⟨rfl, rfl, rfl⟩

/-! ### Runs -/

theorem run_succ (h : step s = .next t) (n : Nat) : Host.Core.run core (n + 1) s = Host.Core.run core n t := by
  have hstep : core.step s = .next t := h
  simp only [Host.Core.run, hstep]

/-- A run in two parts. -/
theorem run_add {m : Nat} (h : Host.Core.run core m s = .next t) (n : Nat) :
    Host.Core.run core (m + n) s = Host.Core.run core n t := by
  induction m generalizing s with
  | zero => cases h; rw [Nat.zero_add]
  | succ m ih =>
    obtain ⟨u, hu⟩ : ∃ u, step s = .next u := by
      cases hs : core.step s with
      | next u => exact ⟨u, hs⟩
      | fault r => simp [Host.Core.run, hs] at h
      | refused r => simp [Host.Core.run, hs] at h
    rw [run_succ hu] at h
    rw [Nat.add_right_comm, run_succ hu, ih h]

/-! ### Pushes one after another (R69) -/

/-- The key staging after the bytes `d` were pushed into an empty one (R64). -/
def stageKey (d : List Byte) (s : State) : State := { s with keybuf := d.take 16, keycnt := min d.length 17 }

/-- The IV staging after the bytes `d` were pushed into an empty one (R65). -/
def stageIv (d : List Byte) (s : State) : State := { s with ivbuf := d.take 16, ivcnt := min d.length 17 }

/-- The input staging after the bytes `d` were pushed into an empty one (R66). -/
def stageData (d : List Byte) (s : State) : State := { s with ibuf := d }

theorem stageKey_nil (hb : s.keybuf = []) (hc : s.keycnt = 0) : stageKey [] s = s := by
  ext1 <;> simp [stageKey, hb, hc]

theorem stageIv_nil (hb : s.ivbuf = []) (hc : s.ivcnt = 0) : stageIv [] s = s := by
  ext1 <;> simp [stageIv, hb, hc]

theorem stageData_nil (hb : s.ibuf = []) : stageData [] s = s := by
  ext1 <;> simp [stageData, hb]

/-- The count after one push more of a string (R64, R65). -/
theorem bumpCount_min (n : Nat) : bumpCount (min n 17) = min (n + 1) 17 := by unfold bumpCount; omega

/-- The stored bytes after one push more of a string: its first 16 (R64, R65). -/
theorem storeByte_take (d : List Byte) (v : Byte) :
    storeByte (min d.length 17) (d.take 16) v = (d ++ [v]).take 16 := by
  unfold storeByte
  split
  next h => rw [List.take_of_length_le (by omega), List.take_of_length_le (by simp; omega)]
  next h => rw [List.take_append_of_le_length (by omega)]

theorem step_stageKey (hf : s.fault = false) (d : List Byte) (v : Byte) (q : List Transaction) :
    step (withPending (.write 4 v :: q) (stageKey d s)) = .next (withPending q (stageKey (d ++ [v]) s)) := by
  rw [step_pushKey (s := withPending _ (stageKey d s)) rfl hf]
  simp [pushKey, stageKey, withPending, bumpCount_min, storeByte_take]

theorem step_stageIv (hf : s.fault = false) (d : List Byte) (v : Byte) (q : List Transaction) :
    step (withPending (.write 5 v :: q) (stageIv d s)) = .next (withPending q (stageIv (d ++ [v]) s)) := by
  rw [step_pushIv (s := withPending _ (stageIv d s)) rfl hf]
  simp [pushIv, stageIv, withPending, bumpCount_min, storeByte_take]

theorem step_stageData (hf : s.fault = false) {d : List Byte} (h : d.length < s.maxMsgBytes) (v : Byte)
    (q : List Transaction) :
    step (withPending (.write 6 v :: q) (stageData d s)) = .next (withPending q (stageData (d ++ [v]) s)) := by
  rw [step_pushData (s := withPending _ (stageData d s)) rfl hf]
  exact congrArg _ (pushData_below (s := withPending q (stageData d s)) h.ne)

/-- A run of writes to one port stages the whole string, where each write stages one byte more: `stage p` is the state
with `p` staged, and at most `n` bytes are. -/
theorem run_writes {stage : List Byte → State → State} {n : Nat}
    (hstage : ∀ p v q, p.length < n → step (withPending (.write off v :: q) (stage p s)) =
      .next (withPending q (stage (p ++ [v]) s)))
    (p d : List Byte) (hn : p.length + d.length ≤ n) :
    Host.Core.run core d.length (withPending (d.map (.write off ·) ++ rest) (stage p s)) =
      .next (withPending rest (stage (p ++ d) s)) := by
  induction d generalizing p with
  | nil => rw [List.append_nil]; rfl
  | cons v d ih =>
    rw [List.length_cons] at hn
    refine (run_succ (hstage p v _ (by omega)) _).trans ((ih (p ++ [v]) (by simp; omega)).trans ?_)
    rw [List.append_assoc, List.singleton_append]

/-! ### Reads of `DOUT` one after another (R67) -/

/-- Reads of `DOUT` as many as bytes are left return these bytes in order. -/
theorem run_drain {out : List Byte} (hf : s.fault = false) (hout : s.obuf.drop s.ord = out) :
    Host.Core.run core out.length (withPending (List.replicate out.length (.read 7) ++ rest) s) =
      .next { s with pending := rest, reads := s.reads ++ out, ord := s.ord + out.length } := by
  induction out generalizing s with
  | nil => rw [List.append_nil]; rfl
  | cons v out ih =>
    have hv : s.obuf[s.ord]? = some v := by rw [← List.head?_drop, hout]; rfl
    have htail : s.obuf.drop (s.ord + 1) = out := by rw [← List.tail_drop, hout]; rfl
    have hstep (p : List Transaction) : step (withPending (.read 7 :: p) s) =
        .next (withPending p { s with reads := s.reads ++ [v], ord := s.ord + 1 }) :=
      (step_readDout rfl).trans (congrArg _ (readReg_dout_some (s := withPending p s) hf hv))
    have hrest := ih (s := { s with reads := s.reads ++ [v], ord := s.ord + 1 }) hf htail
    refine (run_succ (hstep _) _).trans (hrest.trans ?_)
    simp [Nat.add_assoc, Nat.add_comm 1]

/-- With nothing left every read of `DOUT` returns 0x00. -/
theorem run_drained (k : Nat) (hord : s.obuf.length ≤ s.ord) :
    Host.Core.run core k (withPending (List.replicate k (.read 7) ++ rest) s) =
      .next { s with pending := rest, reads := s.reads ++ List.replicate k 0x00 } := by
  induction k generalizing s with
  | zero => simp only [List.replicate_zero, List.append_nil]; rfl
  | succ k ih =>
    have hstep (p : List Transaction) : step (withPending (.read 7 :: p) s) = .next (withPending p (noteRead 0x00 s)) :=
      (step_readDout rfl).trans (congrArg _ (readReg_dout_none (s := withPending p s) (.inr hord)))
    refine (run_succ (hstep _) _).trans ((ih (s := noteRead 0x00 s) hord).trans ?_)
    simp [List.replicate_succ, noteRead]

end Sys2Proof.Machine

namespace Sys2Proof.Proofs

open Sys2Proof Sys2Proof.Machine

/-- Settles O5: idle, reset, read and write each answer a next state, and only a read adds to the host's bytes. -/
theorem everyStepCompletesOneEvent : Obligations.EveryStepCompletesOneEvent := by
  intro s
  cases hp : s.pending with
  | nil => exact ⟨s, step_nil hp, rfl, fun _ => rfl, nofun⟩
  | cons e rest =>
    cases e with
    | reset =>
      refine ⟨_, step_reset hp, rfl, nofun, ?_⟩
      rintro e rest ⟨⟩
      exact ⟨rfl, nofun, fun _ => rfl⟩
    | read off =>
      obtain ⟨hmax, hpend, hreads⟩ := readEffect_sameBus (regOf off) (withPending rest s)
      refine ⟨_, step_read hp, hmax, nofun, ?_⟩
      rintro e rest ⟨⟩
      exact ⟨hpend, fun _ => ⟨_, congrArg (· ++ [_]) hreads⟩, fun h => absurd ⟨off, rfl⟩ h⟩
    | write off v =>
      obtain ⟨t, h, hmax, hpend, hreads⟩ := writeReg_sameBus (regOf off) v (withPending rest s)
      refine ⟨t, (step_write hp).trans h, hmax, nofun, ?_⟩
      rintro e rest ⟨⟩
      exact ⟨hpend, nofun, fun _ => hreads⟩

/-- Settles O4: a live engine's write to offset 0 is `writeCmd`, which runs the command the byte decodes to. -/
theorem stepRunsTheDecodedCommand : Obligations.StepRunsTheDecodedCommand := by
  intro s v i rest hf hp hd
  exact (step_write_live hp hf).trans (writeCmd_ok hd)

/-- Settles O20: the statement writes `pushKey` and `pushIv` out. -/
theorem keyAndIvPushesSaturate : Obligations.KeyAndIvPushesSaturate := by
  intro s v rest
  constructor
  · exact fun hp => ⟨step_write_faulted hp, step_pushKey hp⟩
  · exact fun hp => ⟨step_write_faulted hp, step_pushIv hp⟩

/-- Settles O21: below capacity and at capacity are the two cases of `pushData`. -/
theorem dataPushAppendsOrOverflows : Obligations.DataPushAppendsOrOverflows := by
  intro s v rest hp
  refine ⟨step_write_faulted hp, fun hf hlt => ?_, fun hf hfull => ?_⟩
  · exact (step_pushData hp hf).trans (congrArg _ (pushData_below (s := withPending rest s) hlt))
  · exact ⟨_, (step_pushData hp hf).trans (congrArg _ (pushData_full (s := withPending rest s) hfull)),
      rfl, rfl, rfl, rfl, rfl, rfl⟩

/-- Settles O22: either a byte is left for the read, or the engine is faulted or drained. -/
theorem doutPopsOneByte : Obligations.DoutPopsOneByte := by
  intro s rest hp
  refine ⟨fun v hf hv => ?_, fun h => ?_⟩
  · exact (step_readDout hp).trans (congrArg _ (readReg_dout_some (s := withPending rest s) hf hv))
  · exact (step_readDout hp).trans (congrArg _ (readReg_dout_none (s := withPending rest s) (h.imp_right Eq.ge)))

/-- Settles O23: only `DOUT` has a read effect; the four read-only registers ignore their writes. -/
theorem statusReadsAndReadOnlyWritesHaveNoEffect : Obligations.StatusReadsAndReadOnlyWritesHaveNoEffect := by
  intro s rest hf
  constructor
  · rintro off v hp (rfl | rfl | rfl | rfl)
    · exact step_write_live hp hf
    · exact step_write_live hp hf
    · exact step_write_live hp hf
    · exact step_write_live hp hf
  · intro off hp hoff
    refine ⟨readByte (regOf off) (withPending rest s),
      (step_read hp).trans (congrArg _ (readReg_of_ne_dout (regOf_ne_dout hoff))), ?_, ?_, ?_, ?_⟩
    · rintro rfl; rfl
    · rintro rfl; rfl
    · rintro (rfl | rfl | rfl | rfl)
      · rfl
      · rfl
      · rfl
      · rfl
    · rintro rfl; exact statusByte_bits hf

/-- Settles O26: each port stages one byte more per write; a write to `DIN` does so because the whole string fits. -/
theorem pushedBytesAreStagedInOrder : Obligations.PushedBytesAreStagedInOrder := by
  intro s d rest hf
  refine ⟨fun hbuf hcnt hp => ?_, fun hbuf hcnt hp => ?_, fun hbuf hfit hp => ?_⟩
  · have hrun := run_writes (rest := rest) (fun p v q _ => step_stageKey hf p v q) [] d le_rfl
    rwa [stageKey_nil hbuf hcnt, withPending_eq_self hp] at hrun
  · have hrun := run_writes (rest := rest) (fun p v q _ => step_stageIv hf p v q) [] d le_rfl
    rwa [stageIv_nil hbuf hcnt, withPending_eq_self hp] at hrun
  · have hrun := run_writes (rest := rest) (fun p v q hlt => step_stageData hf hlt v q) [] d (by simpa using hfit)
    rwa [stageData_nil hbuf, withPending_eq_self hp] at hrun

/-- Settles O27: the reads that find a byte, then those that find none. -/
theorem drainReturnsTheOutputInOrder : Obligations.DrainReturnsTheOutputInOrder := by
  intro s k rest hf hord hp
  have hdrain := run_drain (rest := List.replicate k (.read 7) ++ rest) hf (by rw [hord, List.drop_zero])
  rw [List.replicate_add, List.append_assoc] at hp
  rw [withPending_eq_self hp, hord, Nat.zero_add] at hdrain
  exact (run_add hdrain k).trans
    (run_drained (s := { s with reads := s.reads ++ s.obuf, ord := s.obuf.length }) k le_rfl)

end Sys2Proof.Proofs

/-! SUPPORT. The decoder reads a byte by its fields (R91): legal fields are those of a command, and the byte is then
that command's byte of R92. -/

namespace Sys2Proof

open Sys2Proof.Statements

variable {v : Byte} {f : CmdFields}

/-! ### Fields of a byte (R91) -/

/-- The three fields are the whole byte. -/
@[simp] theorem byteOfFields_fieldsOf (v : Byte) : byteOfFields (fieldsOf v) = v :=
  calc v.extractLsb' 6 2 ++ v.extractLsb' 4 2 ++ v.extractLsb' 0 4
    _ = v.extractLsb' 4 4 ++ v.extractLsb' 0 4 :=
        congrArg (· ++ v.extractLsb' 0 4) (BitVec.extractLsb'_append_extractLsb'_eq_extractLsb' rfl)
    _ = v.extractLsb' 0 8 := BitVec.extractLsb'_append_extractLsb'_eq_extractLsb' rfl
    _ = v := BitVec.extractLsb'_eq_self

@[simp] theorem code_modeOf (m : BitVec 2) : (modeOf m).code = m := by
  revert m; decide

@[simp] theorem encCommand_fields (m : Mode) : (encCommand m).fields = ⟨0, m.code, 4⟩ := by
  cases m <;> rfl

@[simp] theorem decCommand_fields (m : Mode) : (decCommand m).fields = ⟨0, m.code, 5⟩ := by
  cases m <;> rfl

/-- Legal fields are the fields of a command: the plain operations have one each, the modal ones one per mode. -/
theorem exists_fields_eq_of_wellFormed (h : f.wellFormed = true) : ∃ i : Instr, i.fields = f := by
  obtain ⟨zero, mode, op⟩ := f
  simp only [CmdFields.wellFormed, CmdFields.opPlain, CmdFields.opModal, Bool.and_eq_true, Bool.or_eq_true,
    beq_iff_eq] at h
  obtain ⟨rfl, ⟨((rfl | rfl) | rfl) | rfl, rfl⟩ | rfl | rfl⟩ := h
  · exact ⟨.loadKey, rfl⟩
  · exact ⟨.encBlock, rfl⟩
  · exact ⟨.decBlock, rfl⟩
  · exact ⟨.flush, rfl⟩
  · exact ⟨encCommand (modeOf mode), by simp⟩
  · exact ⟨decCommand (modeOf mode), by simp⟩

/-! ### Commands and their bytes (R92, R95) -/

/-- The encoding facts of every command. -/
theorem commandEncoding : ∀ i, Laws.CommandEncoding.Statement i
  | .loadKey => Laws.CommandEncoding.loadKey
  | .encBlock => Laws.CommandEncoding.encBlock
  | .decBlock => Laws.CommandEncoding.decBlock
  | .ecbEnc => Laws.CommandEncoding.ecbEnc
  | .ecbDec => Laws.CommandEncoding.ecbDec
  | .flush => Laws.CommandEncoding.flush
  | .cbcEnc => Laws.CommandEncoding.cbcEnc
  | .cbcDec => Laws.CommandEncoding.cbcDec
  | .cfbEnc => Laws.CommandEncoding.cfbEnc
  | .cfbDec => Laws.CommandEncoding.cfbDec
  | .ctrEnc => Laws.CommandEncoding.ctrEnc
  | .ctrDec => Laws.CommandEncoding.ctrDec

@[simp] theorem byteOfFields_fields (i : Instr) : byteOfFields i.fields = encode i :=
  let ⟨_, hbyte, _⟩ := commandEncoding i; hbyte

@[simp] theorem decode_encode (i : Instr) : decode (encode i) = .ok i :=
  let ⟨_, _, hdecode⟩ := commandEncoding i; hdecode

/-- Everything the decoder can answer: the byte is a command's and that command is the answer, or it is illegal. -/
theorem decode_cases (v : Byte) :
    (∃ i, encode i = v ∧ decode v = .ok i) ∨ decode v = .error .illegalCommand := by
  by_cases hwf : (fieldsOf v).wellFormed = true
  · obtain ⟨i, hi⟩ := exists_fields_eq_of_wellFormed hwf
    have hv : encode i = v := by rw [← byteOfFields_fields, hi, byteOfFields_fieldsOf]
    exact .inl ⟨i, hv, hv ▸ decode_encode i⟩
  · exact .inr (if_neg hwf)

theorem decode_eq_ok_iff {i : Instr} : decode v = .ok i ↔ encode i = v := by
  refine ⟨fun hd => ?_, fun hv => hv ▸ decode_encode i⟩
  rcases decode_cases v with ⟨j, hj, hdj⟩ | herr
  · have hji : j = i := Except.ok.inj (hdj.symm.trans hd)
    exact hji ▸ hj
  · exact absurd (hd.symm.trans herr) nofun

theorem decode_eq_error_iff : decode v = .error .illegalCommand ↔ ¬ ∃ i, encode i = v := by
  constructor
  · rintro hd ⟨i, rfl⟩
    exact absurd ((decode_encode i).symm.trans hd) nofun
  · intro hno
    exact (decode_cases v).resolve_left fun ⟨i, hi, _⟩ => hno ⟨i, hi⟩

/-! ### The illegal ranges (R95) -/

theorem not_illegalByte_encode (i : Instr) : ¬ illegalByte (encode i) := by
  unfold illegalByte
  cases i <;> decide

/-- Between the ranges of R95 stand the twelve bytes of R92 and no other. -/
theorem exists_encode_eq_of_not_illegalByte (h : ¬ illegalByte v) : ∃ i, encode i = v := by
  have hbytes : v.toNat = 0x01 ∨ v.toNat = 0x02 ∨ v.toNat = 0x03 ∨ v.toNat = 0x04 ∨ v.toNat = 0x05 ∨ v.toNat = 0x06 ∨
      v.toNat = 0x14 ∨ v.toNat = 0x15 ∨ v.toNat = 0x24 ∨ v.toNat = 0x25 ∨ v.toNat = 0x34 ∨ v.toNat = 0x35 := by
    have hlt := v.isLt
    unfold illegalByte at h
    omega
  have named (i : Instr) (hi : v.toNat = (encode i).toNat) : ∃ i, encode i = v := ⟨i, BitVec.eq_of_toNat_eq hi.symm⟩
  rcases hbytes with hv | hv | hv | hv | hv | hv | hv | hv | hv | hv | hv | hv
  · exact named .loadKey hv
  · exact named .encBlock hv
  · exact named .decBlock hv
  · exact named .ecbEnc hv
  · exact named .ecbDec hv
  · exact named .flush hv
  · exact named .cbcEnc hv
  · exact named .cbcDec hv
  · exact named .cfbEnc hv
  · exact named .cfbDec hv
  · exact named .ctrEnc hv
  · exact named .ctrDec hv

theorem illegalByte_iff : illegalByte v ↔ ¬ ∃ i, encode i = v := by
  constructor
  · rintro h ⟨i, rfl⟩
    exact not_illegalByte_encode i h
  · exact fun hno => by_contra fun h => hno (exists_encode_eq_of_not_illegalByte h)

end Sys2Proof

namespace Sys2Proof.Proofs

open Sys2Proof

/-- Settles O2: the decoder's answers by `decode_cases`, the fields by the table's facts of each command. -/
theorem decodeAndEncodeAgree : Obligations.DecodeAndEncodeAgree :=
  ⟨fun _ _ => decode_eq_ok_iff, commandEncoding⟩

/-- Settles O1: one decoding lemma per row of the table of R92. -/
theorem tableBytesDecodeToTheirCommands : Obligations.TableBytesDecodeToTheirCommands :=
  ⟨decode_loadKey, decode_encBlock, decode_decBlock, decode_ecbEnc, decode_ecbDec, decode_flush,
    decode_cbcEnc, decode_cbcDec, decode_cfbEnc, decode_cfbDec, decode_ctrEnc, decode_ctrDec⟩

/-- Settles O3: a byte is refused, and a byte is in a listed range, exactly when no command has it; the count is
a closed number, evaluated over the 256 bytes. -/
theorem illegalBytesAreTheListedRanges : Obligations.IllegalBytesAreTheListedRanges :=
  ⟨fun _ => decode_eq_error_iff.trans illegalByte_iff.symm, by decide +kernel⟩

end Sys2Proof.Proofs

/-! SUPPORT. `gf_mul` is additive in each operand, so a law of it need only be checked on the one-bit bytes (R112); the
field inverse, and the tables against it (R113 to R115). -/

namespace Sys2Proof.Machine

/-- Every byte is a sum of one-bit bytes: what holds of 0 and of these, and is kept by the sum, holds of every byte. -/
theorem byte_xor_induction {P : Byte → Prop} (zero : P 0) (bit : ∀ i : Fin 8, P (BitVec.twoPow 8 i))
    (xor : ∀ x y, P x → P y → P (x ^^^ y)) (a : Byte) : P a := by
  have term (i : Fin 8) : P (a &&& BitVec.twoPow 8 i) := by
    rw [BitVec.and_twoPow]
    split
    · exact bit i
    · exact zero
  rw [byte_eq_sum_of_bits a]
  exact xor _ _ (xor _ _ (xor _ _ (xor _ _ (xor _ _ (xor _ _ (xor _ _ (term 0) (term 1)) (term 2)) (term 3))
    (term 4)) (term 5)) (term 6)) (term 7)

/-! ### The laws of `gf_mul` (R112) -/

theorem gfDouble_eq (a : Byte) : gfDouble a = (a <<< 1) ^^^ (if a.getLsbD 7 then 0x1B else 0x00) := by
  unfold gfDouble
  split
  · rfl
  · exact BitVec.xor_zero.symm

/-- One iteration, with the accumulator pulled out: the sum of the bit's share and the rest of the loop. -/
theorem gfLoop_succ (n : Nat) (a b : Byte) :
    gfLoop (n + 1) a b 0 = (if b.getLsbD 0 then a else 0) ^^^ gfLoop n (gfDouble a) (b >>> 1) 0 := by
  rw [gfLoop, gfLoop_acc]
  simp only [BitVec.ofNat_eq_ofNat, BitVec.zero_xor]

theorem gfLoop_xor_left (n : Nat) (a b c : Byte) : gfLoop n (a ^^^ b) c 0 = gfLoop n a c 0 ^^^ gfLoop n b c 0 := by
  induction n generalizing a b c with
  | zero => exact BitVec.xor_self.symm
  | succ n ih =>
    rw [gfLoop_succ, gfLoop_succ, gfLoop_succ, gfDouble_xor, ih]
    cases c.getLsbD 0
    · simp
    · simp only [if_true]
      ac_rfl

theorem gfLoop_xor_right (n : Nat) (a b c : Byte) : gfLoop n a (b ^^^ c) 0 = gfLoop n a b 0 ^^^ gfLoop n a c 0 := by
  induction n generalizing a b c with
  | zero => exact BitVec.xor_self.symm
  | succ n ih =>
    have hbit : (if (b ^^^ c).getLsbD 0 then a else 0) =
        (if b.getLsbD 0 then a else 0) ^^^ (if c.getLsbD 0 then a else 0) := by
      rw [BitVec.getLsbD_xor]
      cases b.getLsbD 0 <;> cases c.getLsbD 0 <;> simp
    rw [gfLoop_succ, gfLoop_succ, gfLoop_succ, BitVec.ushiftRight_xor_distrib, ih, hbit]
    ac_rfl

theorem gfMul_xor_left (a b c : Byte) : gfMul (a ^^^ b) c = gfMul a c ^^^ gfMul b c := gfLoop_xor_left 8 a b c

theorem gfMul_xor_right (a b c : Byte) : gfMul a (b ^^^ c) = gfMul a b ^^^ gfMul a c := gfLoop_xor_right 8 a b c

theorem gfMul_zero_left (b : Byte) : gfMul 0 b = 0 := by
  simpa using gfMul_xor_left 0 0 b

theorem gfMul_zero_right (a : Byte) : gfMul a 0 = 0 := by
  simpa using gfMul_xor_right a 0 0

/-- Both sides are additive in `a` and in `b`; on two one-bit bytes there are 64 closed cases. -/
theorem gfMul_comm (a b : Byte) : gfMul a b = gfMul b a := by
  induction a using byte_xor_induction with
  | zero => rw [gfMul_zero_left, gfMul_zero_right]
  | xor x y hx hy => rw [gfMul_xor_left, gfMul_xor_right, hx, hy]
  | bit i =>
    induction b using byte_xor_induction with
    | zero => rw [gfMul_zero_left, gfMul_zero_right]
    | xor x y hx hy => rw [gfMul_xor_left, gfMul_xor_right, hx, hy]
    | bit j => revert i j; decide

/-- Only the first iteration adds: the bits above are 0. -/
theorem gfMul_one_right (a : Byte) : gfMul a 1 = a := by simp [gfMul, gfLoop]

theorem gfMul_one_left (a : Byte) : gfMul 1 a = a := by rw [gfMul_comm, gfMul_one_right]

theorem gfMul_two_right (a : Byte) : gfMul a 2 = gfDouble a := by simp [gfMul, gfLoop]

theorem gfMul_three_right (a : Byte) : gfMul a 3 = gfMul a 2 ^^^ a :=
  calc gfMul a (2 ^^^ 1)
    _ = gfMul a 2 ^^^ gfMul a 1 := gfMul_xor_right a 2 1
    _ = gfMul a 2 ^^^ a := by rw [gfMul_one_right]

/-! ### The field inverse and the tables (R113 to R115) -/

/-- The affine map of the S-box's construction (R113). -/
def sboxAffine (x : Byte) : Byte :=
  x ^^^ x.rotateLeft 1 ^^^ x.rotateLeft 2 ^^^ x.rotateLeft 3 ^^^ x.rotateLeft 4 ^^^ 0x63

/-- The affine map undone. -/
def sboxAffineInv (y : Byte) : Byte := y.rotateLeft 1 ^^^ y.rotateLeft 3 ^^^ y.rotateLeft 6 ^^^ 0x05

theorem sboxAffine_sboxAffineInv : ∀ y, sboxAffine (sboxAffineInv y) = y := by decide +kernel

/-- The inverse of `a` in the field, read back from the printed entry of `a`; `gfMul_gfInv` says that it is one. -/
def gfInv (a : Byte) : Byte := sboxAffineInv (sbox a)

theorem gfInv_zero : gfInv 0 = 0 := by decide

theorem gfMul_gfInv : ∀ {a : Byte}, a ≠ 0 → gfMul a (gfInv a) = 1 := by decide +kernel

theorem sbox_eq_sboxAffine_gfInv (a : Byte) : sbox a = sboxAffine (gfInv a) := (sboxAffine_sboxAffineInv (sbox a)).symm

@[simp] theorem invSbox_sbox : ∀ a, invSbox (sbox a) = a := by decide +kernel

@[simp] theorem sbox_invSbox : ∀ a, sbox (invSbox a) = a := by decide +kernel

theorem sbox_ne_self : ∀ a, sbox a ≠ a := by decide +kernel

theorem sbox_ne_not : ∀ a, sbox a ≠ ~~~a := by decide +kernel

theorem rcon_succ {j : Nat} (h1 : 1 ≤ j) (h9 : j ≤ 9) : rcon (j + 1) = gfMul (rcon j) 2 := by
  interval_cases j <;> decide

end Sys2Proof.Machine

namespace Sys2Proof.Proofs

open Sys2Proof Sys2Proof.Machine

/-- Settles O29: additivity gives the laws; the seven printed products are closed. -/
theorem fieldMultiplicationLaws : Obligations.FieldMultiplicationLaws :=
  ⟨fun a => ⟨gfMul_zero_right a, gfMul_zero_left a, gfMul_one_right a, gfMul_one_left a⟩, gfMul_comm, gfMul_xor_right,
    fun a => (gfMul_two_right a).trans (gfDouble_eq a), gfMul_three_right, by decide⟩

/-- Settles O28: the inverse of the construction is `gfInv`, and 0 is its own. -/
theorem tablesMeetTheirConstruction : Obligations.TablesMeetTheirConstruction := by
  refine ⟨fun a => ⟨invSbox_sbox a, sbox_invSbox a⟩, fun a => ⟨gfInv a, ?_, sbox_eq_sboxAffine_gfInv a⟩,
    fun a => ⟨sbox_ne_self a, sbox_ne_not a⟩, ⟨rfl, fun j => rcon_succ⟩, by decide⟩
  rcases eq_or_ne a 0 with rfl | ha
  · exact .inl ⟨rfl, gfInv_zero⟩
  · exact .inr (gfMul_gfInv ha)

end Sys2Proof.Proofs

/-! SUPPORT. The key schedule read by round keys (R133): every word of a later round key is the word of the round key
before it XOR `temp`, and `temp` is one of two things. -/

namespace Sys2Proof.Machine

/-! ### `temp` (R131 to R133) -/

/-- Byte `j` of the word that starts a round key, after RotWord, SubWord and Rcon. -/
theorem addRcon_subWord_rotWord_get (c : Byte) (t : KeyWord) (j : Fin 4) :
    (addRcon c (subWord (rotWord t)))[j.val] = sbox t[(j.val + 1) % 4] ^^^ (if j = 0 then c else 0) := by
  match j with
  | 0 => rfl
  | 1 | 2 | 3 => exact BitVec.xor_zero.symm

/-- `temp` of the word that starts round key `r + 1`. -/
theorem scheduleTemp_start (w : List Byte) (r : Nat) : scheduleTemp w (16 * (r + 1)) =
    addRcon (rcon (r + 1)) (subWord (rotWord (wordAt w (16 * r + 12)))) := by
  rw [scheduleTemp, if_pos (by omega), Nat.mul_div_cancel_left _ (by decide)]
  rfl

/-- `temp` of a later word of round key `r + 1` is the word before it. -/
theorem scheduleTemp_inside (w : List Byte) (r : Nat) (k : Fin 3) :
    scheduleTemp w (16 * (r + 1) + 4 * (k.val + 1)) = wordAt w (16 * (r + 1) + 4 * k.val) :=
  if_neg (by omega)

/-! ### Round keys (R134) -/

variable (key : Block)

theorem wordAt_expandFlat_get {r k j : Nat} (hr : r < 11) (hk : k < 4) (hj : j < 4) :
    (wordAt (expandFlat key) (16 * r + 4 * k))[j] = (expand key)[r][4 * k + j] := by
  rw [wordAt_get _ _ hj, expand_get _ _ hr, Nat.add_assoc]

/-- Word `k` of round key `r + 1`, byte by byte. -/
theorem expand_succ_get {r k j : Nat} (hr : r < 10) (hk : k < 4) (hj : j < 4) :
    (expand key)[r + 1][4 * k + j] =
      (expand key)[r][4 * k + j] ^^^ (scheduleTemp (expandFlat key) (16 * (r + 1) + 4 * k))[j] := by
  have hki : 16 + 4 * (4 * r + k) = 16 * (r + 1) + 4 * k := by omega
  have hback : 16 * (r + 1) + 4 * k - 16 = 16 * r + 4 * k := by omega
  have hword := expandFlat_word key (show 4 * r + k < 40 by omega) hj
  rw [scheduleWord_getD _ _ hj, hki, hback] at hword
  rwa [expand_get _ _ (by omega), expand_get _ _ (by omega), ← Nat.add_assoc, ← Nat.add_assoc]

@[simp] theorem expand_zero : (expand key)[0] = key :=
  Vector.ext fun i hi => by rw [expand_get _ _ (by decide) _ hi, Nat.mul_zero, Nat.zero_add, expandFlat_key key hi]

theorem expand_succ_get_first (r : Fin 10) (j : Fin 4) :
    (expand key)[r.val + 1][j.val] = (expand key)[r.val][j.val] ^^^
      (sbox (expand key)[r.val][12 + (j.val + 1) % 4] ^^^ (if j = 0 then rcon (r.val + 1) else 0)) := by
  have h := expand_succ_get key (k := 0) r.isLt (by decide) j.isLt
  simp only [Nat.mul_zero, Nat.zero_add, Nat.add_zero, scheduleTemp_start, addRcon_subWord_rotWord_get] at h
  rw [h, wordAt_expandFlat_get key (k := 3) (by omega) (by decide) (by omega)]

theorem expand_succ_get_later (r : Fin 10) (k : Fin 3) (j : Fin 4) :
    (expand key)[r.val + 1][4 * (k.val + 1) + j.val] =
      (expand key)[r.val][4 * (k.val + 1) + j.val] ^^^ (expand key)[r.val + 1][4 * k.val + j.val] := by
  rw [expand_succ_get key r.isLt (by omega) j.isLt, scheduleTemp_inside,
    wordAt_expandFlat_get key (by omega) (by omega) j.isLt]

/-- The key is round key 0, so no two keys have one expansion. -/
theorem expand_injective : Function.Injective expand := fun key key' h =>
  calc key
    _ = (expand key)[0] := (expand_zero key).symm
    _ = (expand key')[0] := by rw [h]
    _ = key' := expand_zero key'

/-! ### `LOAD_KEY` (R135) -/

theorem exec_loadKey_invalid {s : State} (h : s.keycnt ≠ 16) :
    exec .loadKey s = .next (complete (.error .invalidKeySize) s) :=
  congrArg Host.Outcome.next (if_pos h)

theorem exec_loadKey_valid {s : State} (h : s.keycnt = 16) :
    exec .loadKey s = .next (complete (.ok []) (installContext (expand (stagedKey s)) s)) :=
  congrArg Host.Outcome.next (if_neg (not_not_intro h))

end Sys2Proof.Machine

namespace Sys2Proof.Proofs

open Sys2Proof Sys2Proof.Machine

/-- Settles O30: each word of the schedule, read as bytes of round keys. -/
theorem roundKeysFollowTheSchedule : Obligations.RoundKeysFollowTheSchedule :=
  ⟨expand_zero, expand_succ_get_first, expand_succ_get_later, fun _ _ h => expand_injective h⟩

/-- Settles O31: the size test is all that `LOAD_KEY` asks, and sixteen staged bytes are the key. -/
theorem loadKeyInstallsTheExpandedKey : Obligations.LoadKeyInstallsTheExpandedKey := by
  refine fun s _ => ⟨fun key hcnt hbuf => ?_, exec_loadKey_invalid⟩
  have hkey : stagedKey s = key := by rw [stagedKey, hbuf, toBlock_toList]
  rw [exec_loadKey_valid hcnt, hkey]
  rfl

end Sys2Proof.Proofs

/-! SUPPORT. The round steps byte by byte and in the matrix view (R150 to R157), each undone by its inverse; a product of
coefficient matrices is a product of the maps, since `gf_mul` is associative. -/

namespace Sys2Proof.Machine

open Statements

/-! ### Steps byte by byte (R150, R151, R155) -/

@[simp] theorem addRoundKey_get (s k : Block) (i : Nat) (h : i < 16) : (addRoundKey s k)[i] = s[i] ^^^ k[i] :=
  xorBlock_get s k i h

@[simp] theorem subBytes_get (s : Block) (i : Nat) (h : i < 16) : (subBytes s)[i] = sbox s[i] := by simp [subBytes]

@[simp] theorem invSubBytes_get (s : Block) (i : Nat) (h : i < 16) : (invSubBytes s)[i] = invSbox s[i] := by
  simp [invSubBytes]

@[simp] theorem addRoundKey_cancel (s k : Block) : addRoundKey (addRoundKey s k) k = s := xorBlock_cancel s k

@[simp] theorem invSubBytes_subBytes (s : Block) : invSubBytes (subBytes s) = s := block_ext fun i hi => by simp

@[simp] theorem subBytes_invSubBytes (s : Block) : subBytes (invSubBytes s) = s := block_ext fun i hi => by simp

/-! ### The row rotations (R152, R154) -/

@[simp] theorem cell_shiftRows (s : Block) (r c : Fin 4) : cell (shiftRows s) r c = cell s r (c + r) :=
  cell_ofCells _ r c

@[simp] theorem cell_invShiftRows (s : Block) (r c : Fin 4) : cell (invShiftRows s) r c = cell s r (c - r) :=
  cell_ofCells _ r c

@[simp] theorem invShiftRows_shiftRows (s : Block) : invShiftRows (shiftRows s) = s :=
  block_ext_cells fun r c => by rw [cell_invShiftRows, cell_shiftRows, sub_add_cancel]

@[simp] theorem shiftRows_invShiftRows (s : Block) : shiftRows (invShiftRows s) = s :=
  block_ext_cells fun r c => by rw [cell_shiftRows, cell_invShiftRows, add_sub_cancel_right]

/-- A block made from its matrix, column by column (R11). -/
theorem ofCells_eq (f : Fin 4 → Fin 4 → Byte) : ofCells f = #v[f 0 0, f 1 0, f 2 0, f 3 0, f 0 1, f 1 1, f 2 1, f 3 1,
    f 0 2, f 1 2, f 2 2, f 3 2, f 0 3, f 1 3, f 2 3, f 3 3] := by
  refine block_ext fun i hi => (ofCells_get f i hi).trans ?_
  interval_cases i <;> rfl

theorem shiftRows_eq (s : Block) : shiftRows s = #v[s[0], s[5], s[10], s[15], s[4], s[9], s[14], s[3],
    s[8], s[13], s[2], s[7], s[12], s[1], s[6], s[11]] := ofCells_eq _

theorem invShiftRows_eq (s : Block) : invShiftRows s = #v[s[0], s[13], s[10], s[7], s[4], s[1], s[14], s[11],
    s[8], s[5], s[2], s[15], s[12], s[9], s[6], s[3]] := ofCells_eq _

/-! ### The column products (R153, R157) -/

/-- Both sides are additive in each operand; on one-bit bytes there are 512 closed cases. -/
theorem gfMul_assoc (a b c : Byte) : gfMul (gfMul a b) c = gfMul a (gfMul b c) := by
  induction a using byte_xor_induction with
  | zero => simp only [gfMul_zero_left]
  | xor x y hx hy => simp only [gfMul_xor_left, hx, hy]
  | bit i =>
    induction b using byte_xor_induction with
    | zero => simp only [gfMul_zero_left, gfMul_zero_right]
    | xor x y hx hy => simp only [gfMul_xor_left, gfMul_xor_right, hx, hy]
    | bit j =>
      induction c using byte_xor_induction with
      | zero => simp only [gfMul_zero_right]
      | xor x y hx hy => simp only [gfMul_xor_right, hx, hy]
      | bit k => revert i j k; decide +kernel

/-! The constants 0 and 1 as simp writes them. -/

@[simp] theorem gfMul_zeroByte_left (a : Byte) : gfMul 0#8 a = 0#8 := gfMul_zero_left a

@[simp] theorem gfMul_oneByte_left (a : Byte) : gfMul 1#8 a = a := gfMul_one_left a

theorem cell_mulColumns (m : List (List Byte)) (s : Block) (r c : Fin 4) : cell (mulColumns m s) r c =
    gfMul (coeff m r 0) (cell s 0 c) ^^^ gfMul (coeff m r 1) (cell s 1 c) ^^^
    gfMul (coeff m r 2) (cell s 2 c) ^^^ gfMul (coeff m r 3) (cell s 3 c) := cell_ofCells _ r c

/-- Row `r`, column `j` of the product of two coefficient matrices. -/
def coeffProduct (m n : List (List Byte)) (r j : Fin 4) : Byte :=
  gfMul (coeff m r 0) (coeff n 0 j) ^^^ gfMul (coeff m r 1) (coeff n 1 j) ^^^
  gfMul (coeff m r 2) (coeff n 2 j) ^^^ gfMul (coeff m r 3) (coeff n 3 j)

/-- Two matrices applied one after the other are their product applied once. -/
theorem cell_mulColumns_mulColumns (m n : List (List Byte)) (s : Block) (r c : Fin 4) :
    cell (mulColumns m (mulColumns n s)) r c =
      gfMul (coeffProduct m n r 0) (cell s 0 c) ^^^ gfMul (coeffProduct m n r 1) (cell s 1 c) ^^^
      gfMul (coeffProduct m n r 2) (cell s 2 c) ^^^ gfMul (coeffProduct m n r 3) (cell s 3 c) := by
  simp only [cell_mulColumns, coeffProduct, gfMul_xor_left, gfMul_xor_right, gfMul_assoc]
  ac_rfl

/-- A matrix whose product with another is the identity undoes it on every column. -/
theorem mulColumns_cancel {m n : List (List Byte)} (h : ∀ r j, coeffProduct m n r j = if r = j then 1 else 0)
    (s : Block) : mulColumns m (mulColumns n s) = s :=
  block_ext_cells fun r c => by
    simp only [cell_mulColumns_mulColumns, h]
    match r with
    | 0 | 1 | 2 | 3 => simp

@[simp] theorem invMixColumns_mixColumns (s : Block) : invMixColumns (mixColumns s) = s :=
  mulColumns_cancel (by decide) s

@[simp] theorem mixColumns_invMixColumns (s : Block) : mixColumns (invMixColumns s) = s :=
  mulColumns_cancel (by decide) s

/-- Byte `r` of column `c` of a product, by the flat indices of R11. -/
theorem mulColumns_get (m : List (List Byte)) (s : Block) (c r : Fin 4) : (mulColumns m s)[4 * c.val + r.val] =
    gfMul (coeff m r 0) s[4 * c.val] ^^^ gfMul (coeff m r 1) s[4 * c.val + 1] ^^^
    gfMul (coeff m r 2) s[4 * c.val + 2] ^^^ gfMul (coeff m r 3) s[4 * c.val + 3] := by
  simpa [cell, Nat.add_comm] using cell_mulColumns m s r c

/-- The four bytes of a mixed column (R153). -/
theorem mixColumns_get (s : Block) (c : Fin 4) :
    (mixColumns s)[4 * c.val] =
      gfMul 2 s[4 * c.val] ^^^ gfMul 3 s[4 * c.val + 1] ^^^ s[4 * c.val + 2] ^^^ s[4 * c.val + 3] ∧
    (mixColumns s)[4 * c.val + 1] =
      s[4 * c.val] ^^^ gfMul 2 s[4 * c.val + 1] ^^^ gfMul 3 s[4 * c.val + 2] ^^^ s[4 * c.val + 3] ∧
    (mixColumns s)[4 * c.val + 2] =
      s[4 * c.val] ^^^ s[4 * c.val + 1] ^^^ gfMul 2 s[4 * c.val + 2] ^^^ gfMul 3 s[4 * c.val + 3] ∧
    (mixColumns s)[4 * c.val + 3] =
      gfMul 3 s[4 * c.val] ^^^ s[4 * c.val + 1] ^^^ s[4 * c.val + 2] ^^^ gfMul 2 s[4 * c.val + 3] := by
  have row := mulColumns_get mixRows s c
  -- what is left of each row: its coefficients 1 drop out
  refine ⟨(row 0).trans ?_, (row 1).trans ?_, (row 2).trans ?_, (row 3).trans ?_⟩ <;>
    simp [coeff, mixRows]

/-! ### The ciphers (R158, R161) -/

/-- A round of the inverse cipher undoes a forward round, each read between ShiftRows and the next round key. -/
theorem decRound_encRound (s k : Block) :
    decRound (shiftRows (subBytes (encRound s k))) k = shiftRows (subBytes s) := by
  rw [decRound, encRound, invShiftRows_shiftRows, invSubBytes_subBytes, addRoundKey_cancel, invMixColumns_mixColumns]

/-- The same the other way round. -/
theorem encRound_decRound (s k : Block) :
    encRound (invSubBytes (invShiftRows (decRound s k))) k = invSubBytes (invShiftRows s) := by
  rw [encRound, decRound, subBytes_invSubBytes, shiftRows_invShiftRows, mixColumns_invMixColumns, addRoundKey_cancel]

/-- Rounds undone one by one, the last one first: `view` is where in the round the undoing round starts. -/
theorem foldl_reverse_cancel {κ : Type} {view : Block → Block} {round undo : Block → κ → Block}
    (h : ∀ s k, undo (view (round s k)) k = view s) (ks : List κ) (s : Block) :
    ks.reverse.foldl undo (view (ks.foldl round s)) = view s := by
  induction ks generalizing s with
  | nil => rfl
  | cons k ks ih => rw [List.foldl_cons, List.reverse_cons, List.foldl_append, ih, List.foldl_cons, List.foldl_nil, h]

variable (rk : RoundKeys)

/-- The round keys between the first and the last, in the forward cipher's order (R158). -/
def middleKeys : List Block := [rk[1], rk[2], rk[3], rk[4], rk[5], rk[6], rk[7], rk[8], rk[9]]

theorem encryptBlock_eq_foldl (b : Block) :
    encryptBlock rk b = encFinal ((middleKeys rk).foldl encRound (addRoundKey b rk[0])) rk[10] := rfl

theorem decryptBlock_eq_foldl (b : Block) :
    decryptBlock rk b = decFinal ((middleKeys rk).reverse.foldl decRound (addRoundKey b rk[10])) rk[0] := rfl

@[simp] theorem decryptBlock_encryptBlock (b : Block) : decryptBlock rk (encryptBlock rk b) = b := by
  have rounds := foldl_reverse_cancel (view := fun s => shiftRows (subBytes s)) decRound_encRound (middleKeys rk)
  rw [decryptBlock_eq_foldl, encryptBlock_eq_foldl, encFinal, addRoundKey_cancel, rounds, decFinal,
    invShiftRows_shiftRows, invSubBytes_subBytes, addRoundKey_cancel]

@[simp] theorem encryptBlock_decryptBlock (c : Block) : encryptBlock rk (decryptBlock rk c) = c := by
  have rounds := foldl_reverse_cancel (view := fun s => invSubBytes (invShiftRows s)) encRound_decRound
    (middleKeys rk).reverse
  rw [List.reverse_reverse] at rounds
  rw [encryptBlock_eq_foldl, decryptBlock_eq_foldl, decFinal, addRoundKey_cancel, rounds, encFinal,
    subBytes_invSubBytes, shiftRows_invShiftRows, addRoundKey_cancel]

/-! ### Blocks of a byte string, and ECB on them (R181, R183) -/

@[simp] theorem blockAt_zero (d : List Byte) : blockAt d 0 = toBlock d := by simp [blockAt, toBlock]

theorem blockAt_succ (d : List Byte) (i : Nat) : blockAt d (i + 1) = blockAt (d.drop 16) i := by
  refine block_ext fun j hj => ?_
  simp only [blockAt, Vector.getElem_ofFn, List.getD_eq_getElem?_getD, List.getElem?_drop]
  rw [show 16 * (i + 1) + j = 16 + (16 * i + j) by omega]

/-- Behind a whole block the blocks of a string are numbered from 1. -/
theorem blockAt_append_succ (b : Block) (d : List Byte) (i : Nat) : blockAt (b.toList ++ d) (i + 1) = blockAt d i := by
  rw [blockAt_succ, List.drop_left' (by simp)]

theorem blockAt_ecbEncrypt {d : List Byte} {i : Nat} (h : i < nblocks d.length) :
    blockAt (ecbEncrypt rk (blocksOf d)) i = encryptBlock rk (blockAt d i) := by
  induction d using blocks_induction generalizing i with
  | nil => exact absurd h (Nat.not_lt_zero i)
  | block d hd ih =>
    rw [blocksOf_cons hd, ecbEncrypt, toBlock_take]
    cases i with
    | zero => rw [blockAt_zero, blockAt_zero, toBlock_toList_append]
    | succ i =>
      rw [blockAt_append_succ, blockAt_succ]
      exact ih (by simp only [nblocks, List.length_drop] at h ⊢; omega)

/-! ### `ENC_BLOCK` and `DEC_BLOCK` (R164, R165) -/

variable {s : State} {b : Block}

/-- A ready engine with a whole block staged passes both checks of the prologue. -/
theorem blockPrologue_ready {body : State} (hs : Ready s) (hbuf : s.ibuf = b.toList) : blockPrologue s body = body := by
  obtain ⟨-, hctx⟩ := hs
  have hlen : s.icnt = 16 := by simp [hbuf]
  rw [blockPrologue, if_neg (by simp [hctx]), if_neg (not_not_intro hlen)]

theorem stagedBlock_eq (hbuf : s.ibuf = b.toList) : stagedBlock s = b := by rw [stagedBlock, hbuf, toBlock_toList]

theorem exec_encBlock_ready (hs : Ready s) (hbuf : s.ibuf = b.toList) :
    exec .encBlock s = .next (complete (.ok (encryptBlock s.rk b).toList) s) := by
  rw [exec, execEncBlock, blockPrologue_ready hs hbuf, stagedBlock_eq hbuf]

theorem exec_decBlock_ready (hs : Ready s) (hbuf : s.ibuf = b.toList) :
    exec .decBlock s = .next (complete (.ok (decryptBlock s.rk b).toList) s) := by
  rw [exec, execDecBlock, blockPrologue_ready hs hbuf, stagedBlock_eq hbuf]

end Sys2Proof.Machine

namespace Sys2Proof.Proofs

open Sys2Proof Sys2Proof.Machine

/-- Settles O32: each step read at its entries; the rows of the inverse matrix have no entry 1 to drop. -/
theorem roundStepsActByEntries : Obligations.RoundStepsActByEntries := by
  refine ⟨fun s k i => addRoundKey_get s k i i.isLt, fun s i => ⟨subBytes_get s i i.isLt, invSubBytes_get s i i.isLt⟩,
    shiftRows_eq, invShiftRows_eq, ?_⟩
  rintro s c _ _ _ _ rfl rfl rfl rfl
  obtain ⟨h0, h1, h2, h3⟩ := mixColumns_get s c
  have row := mulColumns_get invMixRows s c
  exact ⟨h0, h1, h2, h3, row 0, row 1, row 2, row 3⟩

/-- Settles O33: XOR, the row rotations and the tables cancel entry by entry, the matrices by their product. -/
theorem inverseStepsUndoForwardSteps : Obligations.InverseStepsUndoForwardSteps :=
  ⟨addRoundKey_cancel, fun s => ⟨invShiftRows_shiftRows s, shiftRows_invShiftRows s⟩,
    fun s => ⟨invSubBytes_subBytes s, subBytes_invSubBytes s⟩,
    fun s => ⟨invMixColumns_mixColumns s, mixColumns_invMixColumns s⟩⟩

/-- Settles O34: both ciphers with the list of their nine rounds run out. -/
theorem ciphersAreTheirTenRounds : Obligations.CiphersAreTheirTenRounds :=
  fun k b => ⟨encryptBlock_eq_foldl k b, decryptBlock_eq_foldl k b⟩

/-- Settles O35: the rounds cancel from the last one inwards; ECB is the cipher block by block. -/
theorem decryptInvertsEncrypt : Obligations.DecryptInvertsEncrypt := by
  refine ⟨decryptBlock_encryptBlock, encryptBlock_decryptBlock, fun k d i j hi hj hij => ?_⟩
  have whole : d.length / 16 ≤ nblocks d.length := by unfold nblocks; omega
  rw [blockAt_ecbEncrypt k (hi.trans_le whole), blockAt_ecbEncrypt k (hj.trans_le whole), hij]

/-- Settles O36: a ready engine with a staged block passes the prologue, and the completion is R233 written out. -/
theorem blockCommandsReturnTheBlock : Obligations.BlockCommandsReturnTheBlock :=
  fun _ _ hs hbuf => ⟨exec_encBlock_ready hs hbuf, exec_decBlock_ready hs hbuf⟩

end Sys2Proof.Proofs

/-! SUPPORT. The padding codec by its specification (R211, R212): removal undoes exactly the sixteen valid paddings. -/

namespace Sys2Proof.Machine

open Statements

/-! ### The padding bytes (R211) -/

@[simp] theorem padBytes_length (n : Nat) : (padBytes n).length = n := List.length_replicate

theorem padLength_eq (n : Nat) : padLength n = 16 - n % 16 := if_neg (by omega)

theorem addPadding_eq_padded (d : List Byte) : addPadding d = padded d := by
  rw [addPadding, padLength_eq]; rfl

theorem addPadding_isPaddingOf (d : List Byte) : IsPaddingOf d (addPadding d) :=
  ⟨16 - d.length % 16, by omega, by omega, addPadding_eq_padded d⟩

/-- A padding length fits in the byte that states it. -/
theorem toNat_padByte {n : Nat} (h : n ≤ 16) : (BitVec.ofNat 8 n).toNat = n :=
  Nat.mod_eq_of_lt (by omega)

theorem getLast?_append_padBytes (plain : List Byte) {n : Nat} (h : 1 ≤ n) :
    (plain ++ padBytes n).getLast? = some (BitVec.ofNat 8 n) := by
  rw [padBytes, List.getLast?_append, List.getLast?_replicate, if_neg (by omega), Option.some_or]

/-- The last byte of a padded string says how long the padding is (R195, R212). -/
theorem getLast?_of_isPaddingOf {plain work : List Byte} (h : IsPaddingOf plain work) :
    ∃ l, work.getLast? = some l ∧ 1 ≤ l.toNat ∧ l.toNat ≤ 16 ∧ plain.length + l.toNat = work.length := by
  obtain ⟨n, h1, h16, rfl⟩ := h
  refine ⟨_, getLast?_append_padBytes plain h1, ?_⟩
  rw [toNat_padByte h16]
  exact ⟨h1, h16, by simp⟩

/-! ### Removal (R212) -/

theorem removePadding_of_isPaddingOf {plain work : List Byte} (h : IsPaddingOf plain work) :
    removePadding work = .ok plain := by
  obtain ⟨n, h1, h16, rfl⟩ := h
  have hplain : (plain ++ padBytes n).length - n = plain.length := by simp
  rw [removePadding, getLast?_append_padBytes plain h1]
  simp only [toNat_padByte h16, hplain, List.take_left, List.drop_left]
  rw [if_neg (by omega), if_neg (by omega), if_neg (by simp), if_pos (by simp [padBytes])]

/-- Everything removal can answer: the string without a valid padding, or InvalidPadding with no valid one behind it. -/
theorem removePadding_cases (work : List Byte) :
    (∃ plain, IsPaddingOf plain work ∧ removePadding work = .ok plain) ∨
    ((¬ ∃ plain, IsPaddingOf plain work) ∧ removePadding work = .error .invalidPadding) := by
  by_cases h : ∃ plain, IsPaddingOf plain work
  · obtain ⟨plain, hp⟩ := h
    exact .inl ⟨plain, hp, removePadding_of_isPaddingOf hp⟩
  · refine .inr ⟨h, ?_⟩
    unfold removePadding
    split
    next => rfl
    next l _ =>
      split_ifs with h0 h16 hlen hall
      · rfl
      · rfl
      · rfl
      · have htail : work.drop (work.length - l.toNat) = padBytes l.toNat :=
          List.eq_replicate_iff.2 ⟨by simp; omega, fun v hv => by
            simpa using List.all_eq_true.1 hall v hv⟩
        exact absurd ⟨_, l.toNat, by omega, by omega, by rw [← htail, List.take_append_drop]⟩ h
      · rfl

@[simp] theorem removePadding_addPadding (d : List Byte) : removePadding (addPadding d) = .ok d :=
  removePadding_of_isPaddingOf (addPadding_isPaddingOf d)

end Sys2Proof.Machine

/-! SUPPORT. What the mode recursions write, block by block or byte by byte (R180 to R191), and that each decryption
undoes its encryption (R193). -/

namespace Sys2Proof.Machine

open Statements

variable (rk : RoundKeys)

/-! ### Chains -/

/-- The block before block `i`: the chain's start, then the blocks of `d` (R186, R187). -/
def previousBlock (start : Block) (d : List Byte) (i : Nat) : Block := if i = 0 then start else blockAt d (i - 1)

@[simp] theorem previousBlock_zero (start : Block) (d : List Byte) : previousBlock start d 0 = start := rfl

@[simp] theorem previousBlock_succ (start : Block) (d : List Byte) (i : Nat) :
    previousBlock start d (i + 1) = blockAt d i := rfl

/-- Past its first block a string is chained from that block. -/
theorem previousBlock_toBlock_drop (d : List Byte) (i : Nat) :
    previousBlock (toBlock d) (d.drop 16) i = blockAt d i := by
  cases i with
  | zero => exact (blockAt_zero d).symm
  | succ i => exact (blockAt_succ d i).symm

theorem previousBlock_eq_blockAt_append (b : Block) (d : List Byte) (i : Nat) :
    previousBlock b d i = blockAt (b.toList ++ d) i := by
  rw [← previousBlock_toBlock_drop, toBlock_toList_append, List.drop_left' (by simp)]

/-- Without its first block a string has one block fewer. -/
theorem lt_nblocks_drop {d : List Byte} {i : Nat} (h : i + 1 < nblocks d.length) : i < nblocks (d.drop 16).length := by
  simp only [nblocks, List.length_drop] at h ⊢; omega

/-! ### The padded modes (R184, R186, R187) -/

theorem blockAt_ecbDecrypt {d : List Byte} {i : Nat} (h : i < nblocks d.length) :
    blockAt (ecbDecrypt rk (blocksOf d)) i = decryptBlock rk (blockAt d i) := by
  induction d using blocks_induction generalizing i with
  | nil => exact absurd h (Nat.not_lt_zero i)
  | block d hd ih =>
    rw [blocksOf_cons hd, ecbDecrypt, toBlock_take]
    cases i with
    | zero => rw [blockAt_zero, blockAt_zero, toBlock_toList_append]
    | succ i => rw [blockAt_append_succ, blockAt_succ]; exact ih (lt_nblocks_drop h)

theorem blockAt_cbcEncrypt (chain : Block) {d : List Byte} {i : Nat} (h : i < nblocks d.length) :
    blockAt (cbcEncrypt rk chain (blocksOf d)) i =
      encryptBlock rk (xorBlock (blockAt d i) (previousBlock chain (cbcEncrypt rk chain (blocksOf d)) i)) := by
  induction d using blocks_induction generalizing chain i with
  | nil => exact absurd h (Nat.not_lt_zero i)
  | block d hd ih =>
    rw [blocksOf_cons hd, cbcEncrypt, toBlock_take]
    cases i with
    | zero => rw [blockAt_zero, blockAt_zero, toBlock_toList_append, previousBlock_zero]
    | succ i =>
      rw [blockAt_append_succ, blockAt_succ, previousBlock_succ, ← previousBlock_eq_blockAt_append]
      exact ih _ (lt_nblocks_drop h)

theorem blockAt_cbcDecrypt (chain : Block) {d : List Byte} {i : Nat} (h : i < nblocks d.length) :
    blockAt (cbcDecrypt rk chain (blocksOf d)) i =
      xorBlock (decryptBlock rk (blockAt d i)) (previousBlock chain d i) := by
  induction d using blocks_induction generalizing chain i with
  | nil => exact absurd h (Nat.not_lt_zero i)
  | block d hd ih =>
    rw [blocksOf_cons hd, cbcDecrypt, toBlock_take]
    cases i with
    | zero => rw [blockAt_zero, blockAt_zero, toBlock_toList_append, previousBlock_zero]
    | succ i =>
      rw [blockAt_append_succ, blockAt_succ, previousBlock_succ, ← previousBlock_toBlock_drop d]
      exact ih _ (lt_nblocks_drop h)

/-! ### The stream modes (R185, R188 to R191) -/

/-- `out` is `d` XOR the keystream `E(reg 0)`, `E(reg 1)`, …, a register for each block, byte by byte (R185). -/
def XorsKeystream (reg : Nat → Block) (d out : List Byte) : Prop :=
  ∀ j, j < d.length → out.getD j 0 = d.getD j 0 ^^^ (encryptBlock rk (reg (j / 16)))[j % 16]

/-- The first block of a string under keystream, and what follows it. -/
theorem take_xorKeystream_append {d rest : List Byte} (ks : Block) (h : rest.length = (d.drop 16).length) :
    (xorKeystream (d.take 16) ks ++ rest).take 16 = xorKeystream (d.take 16) ks := by
  rcases Nat.lt_or_ge d.length 16 with hd | hd
  · have hrest : rest = [] := List.length_eq_zero_iff.1 (by simp at h; omega)
    rw [hrest, List.append_nil, List.take_of_length_le (by simp)]
  · exact List.take_left' (by simp [hd])

theorem drop_xorKeystream_append {d rest : List Byte} (ks : Block) (h : rest.length = (d.drop 16).length) :
    (xorKeystream (d.take 16) ks ++ rest).drop 16 = rest := by
  rcases Nat.lt_or_ge d.length 16 with hd | hd
  · have hrest : rest = [] := List.length_eq_zero_iff.1 (by simp at h; omega)
    rw [hrest, List.append_nil, List.drop_of_length_le (by simp)]
  · exact List.drop_left' (by simp [hd])

theorem toBlock_xorKeystream_append {d rest : List Byte} (ks : Block) (h : rest.length = (d.drop 16).length) :
    toBlock (xorKeystream (d.take 16) ks ++ rest) = toBlock (xorKeystream (d.take 16) ks) := by
  rw [← toBlock_take, take_xorKeystream_append ks h]

theorem blocksOf_xorKeystream_append {d rest : List Byte} (hd : d ≠ []) (ks : Block)
    (h : rest.length = (d.drop 16).length) :
    blocksOf (xorKeystream (d.take 16) ks ++ rest) = xorKeystream (d.take 16) ks :: blocksOf rest := by
  have hne : xorKeystream (d.take 16) ks ++ rest ≠ [] := by
    have hpos := List.length_pos_iff.2 hd
    exact List.ne_nil_of_length_pos (by simp; omega)
  rw [blocksOf_cons hne, take_xorKeystream_append ks h, drop_xorKeystream_append ks h]

/-- One block XOR its keystream, the rest under the later registers. -/
theorem XorsKeystream.cons {reg : Nat → Block} {d rest : List Byte} (hlen : rest.length = (d.drop 16).length)
    (h : XorsKeystream rk (fun i => reg (i + 1)) (d.drop 16) rest) :
    XorsKeystream rk reg d (xorKeystream (d.take 16) (encryptBlock rk (reg 0)) ++ rest) := by
  intro j hj
  rcases Nat.lt_or_ge j 16 with hj16 | hj16
  · have hin : j < (xorKeystream (d.take 16) (encryptBlock rk (reg 0))).length := by simp; omega
    rw [List.getD_append _ _ _ _ hin, List.getD_eq_getElem _ _ hin, xorKeystream_get, List.getD_eq_getElem _ _ hj]
    simp [Nat.div_eq_of_lt hj16, Nat.mod_eq_of_lt hj16]
  · obtain ⟨k, rfl⟩ := Nat.exists_eq_add_of_le hj16
    have hk := h k (by simp; omega)
    rw [← drop_xorKeystream_append (encryptBlock rk (reg 0)) hlen] at hk
    simpa [List.getElem?_drop, Nat.add_div_left] using hk

theorem cfbEncrypt_xorsKeystream (chain : Block) (d : List Byte) :
    XorsKeystream rk (previousBlock chain (cfbEncrypt rk chain (blocksOf d))) d (cfbEncrypt rk chain (blocksOf d)) := by
  induction d using blocks_induction generalizing chain with
  | nil => exact fun j hj => absurd hj (Nat.not_lt_zero j)
  | block d hd ih =>
    have hlen := cfbEncrypt_length rk (toBlock (xorKeystream (d.take 16) (encryptBlock rk chain))) (d.drop 16)
    rw [blocksOf_cons hd, cfbEncrypt]
    refine XorsKeystream.cons rk hlen ?_
    simp only [previousBlock_succ, ← previousBlock_toBlock_drop, toBlock_xorKeystream_append _ hlen,
      drop_xorKeystream_append _ hlen]
    exact ih _

theorem cfbDecrypt_xorsKeystream (chain : Block) (d : List Byte) :
    XorsKeystream rk (previousBlock chain d) d (cfbDecrypt rk chain (blocksOf d)) := by
  induction d using blocks_induction generalizing chain with
  | nil => exact fun j hj => absurd hj (Nat.not_lt_zero j)
  | block d hd ih =>
    rw [blocksOf_cons hd, cfbDecrypt, toBlock_take]
    refine XorsKeystream.cons rk (cfbDecrypt_length _ _ _) ?_
    simp only [previousBlock_succ, ← previousBlock_toBlock_drop]
    exact ih _

theorem ctrCrypt_xorsKeystream (iv : Block) (i : Nat) (d : List Byte) :
    XorsKeystream rk (fun k => ctrBlock iv (i + k)) d (ctrCrypt rk iv i (blocksOf d)) := by
  induction d using blocks_induction generalizing i with
  | nil => exact fun j hj => absurd hj (Nat.not_lt_zero j)
  | block d hd ih =>
    rw [blocksOf_cons hd, ctrCrypt]
    refine XorsKeystream.cons rk (reg := fun k => ctrBlock iv (i + k)) (ctrCrypt_length _ _ _ _) ?_
    simp only [← Nat.add_assoc, Nat.add_right_comm i _ 1]
    exact ih _

/-- From index 0 on, as the commands run it, the registers are the counter blocks (R190). -/
theorem ctrCrypt_zero_xorsKeystream (iv : Block) (d : List Byte) :
    XorsKeystream rk (ctrBlock iv) d (ctrCrypt rk iv 0 (blocksOf d)) := by
  simpa only [Nat.zero_add] using ctrCrypt_xorsKeystream rk iv 0 d

/-! ### Decryption undoes encryption (R193) -/

theorem length_drop_mod_block {d : List Byte} (h : d.length % 16 = 0) : (d.drop 16).length % 16 = 0 := by
  simp; omega

/-- A non-empty string of whole blocks is its first block and the rest. -/
theorem toBlock_toList_append_drop {d : List Byte} (hd : d ≠ []) (h : d.length % 16 = 0) :
    (toBlock d).toList ++ d.drop 16 = d := by
  have hpos := List.length_pos_iff.2 hd
  rw [toBlock_toList_eq_take (by omega), List.take_append_drop]

theorem ecbDecrypt_ecbEncrypt {d : List Byte} (h : d.length % 16 = 0) :
    ecbDecrypt rk (blocksOf (ecbEncrypt rk (blocksOf d))) = d := by
  induction d using blocks_induction with
  | nil => simp only [blocksOf_nil, ecbEncrypt, ecbDecrypt]
  | block d hd ih =>
    rw [blocksOf_cons hd, ecbEncrypt, blocksOf_block_append, ecbDecrypt, ih (length_drop_mod_block h), toBlock_toList,
      decryptBlock_encryptBlock, toBlock_take, toBlock_toList_append_drop hd h]

theorem cbcDecrypt_cbcEncrypt (chain : Block) {d : List Byte} (h : d.length % 16 = 0) :
    cbcDecrypt rk chain (blocksOf (cbcEncrypt rk chain (blocksOf d))) = d := by
  induction d using blocks_induction generalizing chain with
  | nil => simp only [blocksOf_nil, cbcEncrypt, cbcDecrypt]
  | block d hd ih =>
    rw [blocksOf_cons hd, cbcEncrypt, blocksOf_block_append, cbcDecrypt, toBlock_toList, ih _ (length_drop_mod_block h),
      decryptBlock_encryptBlock, xorBlock_cancel, toBlock_take, toBlock_toList_append_drop hd h]

theorem cfbDecrypt_cfbEncrypt (chain : Block) (d : List Byte) :
    cfbDecrypt rk chain (blocksOf (cfbEncrypt rk chain (blocksOf d))) = d := by
  induction d using blocks_induction generalizing chain with
  | nil => simp only [blocksOf_nil, cfbEncrypt, cfbDecrypt]
  | block d hd ih =>
    rw [blocksOf_cons hd, cfbEncrypt, blocksOf_xorKeystream_append hd _ (cfbEncrypt_length _ _ _), cfbDecrypt, ih,
      xorKeystream_cancel _ (List.length_take_le 16 d), List.take_append_drop]

/-- CTR is its own inverse. -/
theorem ctrCrypt_ctrCrypt (iv : Block) (i : Nat) (d : List Byte) :
    ctrCrypt rk iv i (blocksOf (ctrCrypt rk iv i (blocksOf d))) = d := by
  induction d using blocks_induction generalizing i with
  | nil => simp only [blocksOf_nil, ctrCrypt]
  | block d hd ih =>
    rw [blocksOf_cons hd, ctrCrypt, blocksOf_xorKeystream_append hd _ (ctrCrypt_length _ _ _ _), ctrCrypt, ih,
      xorKeystream_cancel _ (List.length_take_le 16 d), List.take_append_drop]

end Sys2Proof.Machine

/-! SUPPORT. What the mode commands answer: their prologue's replies and faults, and past it the reply of their mode
(R182 to R191, R239 to R241). -/

namespace Sys2Proof.Machine

open Statements

variable {i : Instr} {s t : State}

/-! ### Operands -/

/-- A ready engine with an IV has its context, its count and its staged IV (R21, R27). -/
theorem readyIv_operands {iv : Block} (h : ReadyIv iv s) : s.ctxValid = true ∧ s.ivcnt = 16 ∧ stagedIv s = iv := by
  obtain ⟨-, hctx, hcnt, hbuf⟩ := h
  exact ⟨hctx, hcnt, by rw [stagedIv, hbuf, toBlock_toList]⟩

theorem addPadding_length_mod (d : List Byte) : (addPadding d).length % 16 = 0 := by
  rw [addPadding_length, Nat.mul_mod_right]

theorem div_le_nblocks (n : Nat) : n / 16 ≤ nblocks n := Nat.div_le_div_right (Nat.le_add_right n 15)

theorem previousBlock_div (start : Block) (d : List Byte) (j : Nat) :
    previousBlock start d (j / 16) = if j < 16 then start else blockAt d (j / 16 - 1) :=
  if_congr (by omega) rfl rfl

theorem decryptedWork_length (i : Instr) (h : s.ibuf.length % 16 = 0) : (decryptedWork i s).length = s.ibuf.length := by
  unfold decryptedWork
  split
  · exact ecbDecrypt_whole_length _ h
  · exact cbcDecrypt_whole_length _ _ h

/-! ### The checks of the prologues (R239 to R241) -/

/-- The commands that need a context look for it first. -/
theorem exec_needsContext (hi : i ∈ needsContext) (s : State) :
    ∃ body, exec i s = .next (if s.ctxValid = false then raiseFault .noContext s else body) := by
  fin_cases hi <;> exact ⟨_, rfl⟩

theorem exec_noContext (hi : i ∈ needsContext) (hctx : s.ctxValid = false) :
    exec i s = .next (raiseFault .noContext s) := by
  obtain ⟨body, h⟩ := exec_needsContext hi s
  rw [h, if_pos hctx]

/-- The chained commands have the prologue of a mode other than ECB. -/
theorem exec_chained (hi : i ∈ chainedCommands) (s : State) :
    ∃ m body, m ≠ .ecb ∧ exec i s = .next (modePrologue m s body) := by
  fin_cases hi <;> exact ⟨_, _, by decide, rfl⟩

theorem exec_missingIv (hi : i ∈ chainedCommands) (hctx : s.ctxValid = true) (h0 : s.ivcnt = 0) :
    exec i s = .next (complete (.error .missingIv) s) := by
  obtain ⟨m, body, hm, h⟩ := exec_chained hi s
  rw [h, modePrologue, if_neg (by simp [hctx]), if_pos ⟨hm, h0⟩]

theorem exec_badIvLength (hi : i ∈ chainedCommands) (hctx : s.ctxValid = true) (h0 : s.ivcnt ≠ 0) (h16 : s.ivcnt ≠ 16) :
    exec i s = .next (raiseFault .badIvLength s) := by
  obtain ⟨m, body, hm, h⟩ := exec_chained hi s
  rw [h, modePrologue, if_neg (by simp [hctx]), if_neg (fun h' => h0 h'.2), if_pos ⟨hm, h16⟩]

/-- The block commands have the block prologue. -/
theorem exec_blockCommand (hi : i ∈ blockCommands) (s : State) : ∃ body, exec i s = .next (blockPrologue s body) := by
  fin_cases hi <;> exact ⟨_, rfl⟩

theorem exec_badBlockLength (hi : i ∈ blockCommands) (hctx : s.ctxValid = true) (hlen : s.ibuf.length ≠ 16) :
    exec i s = .next (raiseFault .badBlockLength s) := by
  obtain ⟨body, h⟩ := exec_blockCommand hi s
  rw [h, blockPrologue, if_neg (by simp [hctx]), if_pos (show s.icnt ≠ 16 from hlen)]

/-! ### Past the prologue (R183 to R191) -/

theorem exec_ecbEnc_ready (hctx : s.ctxValid = true) :
    exec .ecbEnc s = .next (complete (.ok (ecbEncrypt s.rk (blocksOf (addPadding s.ibuf)))) s) :=
  congrArg Host.Outcome.next (modePrologue_ecb hctx)

theorem exec_cbcEnc_ready (hctx : s.ctxValid = true) (hcnt : s.ivcnt = 16) :
    exec .cbcEnc s = .next (complete (.ok (cbcEncrypt s.rk (stagedIv s) (blocksOf (addPadding s.ibuf)))) s) :=
  congrArg Host.Outcome.next (modePrologue_ready hctx hcnt)

theorem exec_cfbEnc_ready (hctx : s.ctxValid = true) (hcnt : s.ivcnt = 16) :
    exec .cfbEnc s = .next (complete (.ok (cfbEncrypt s.rk (stagedIv s) (blocksOf s.ibuf))) s) :=
  congrArg Host.Outcome.next (modePrologue_ready hctx hcnt)

theorem exec_cfbDec_ready (hctx : s.ctxValid = true) (hcnt : s.ivcnt = 16) :
    exec .cfbDec s = .next (complete (.ok (cfbDecrypt s.rk (stagedIv s) (blocksOf s.ibuf))) s) :=
  congrArg Host.Outcome.next (modePrologue_ready hctx hcnt)

/-- Both CTR commands are one function (R190, R191). -/
theorem exec_ctr_ready (hi : i = .ctrEnc ∨ i = .ctrDec) (hctx : s.ctxValid = true) (hcnt : s.ivcnt = 16) :
    exec i s = .next (complete (.ok (ctrCrypt s.rk (stagedIv s) 0 (blocksOf s.ibuf))) s) := by
  rcases hi with rfl | rfl
  · exact congrArg Host.Outcome.next (modePrologue_ready hctx hcnt)
  · exact congrArg Host.Outcome.next (modePrologue_ready hctx hcnt)

/-- The command needs no IV, or has a whole one (R182). -/
def IvSuffices (i : Instr) (s : State) : Prop :=
  i = .ecbEnc ∨ i = .ecbDec ∨ (i ∈ chainedCommands ∧ s.ivcnt = 16)

theorem mem_unpaddingCommands : i ∈ unpaddingCommands ↔ i = .ecbDec ∨ i = .cbcDec := by
  simp only [unpaddingCommands, List.mem_cons, List.not_mem_nil, or_false]

/-- An unpadding command checks the length, then decrypts and unpads (R184, R187). -/
theorem exec_unpadding_ready (hi : i ∈ unpaddingCommands) (hctx : s.ctxValid = true) (hiv : IvSuffices i s) :
    exec i s = .next (wholeBlocks s (complete (removePadding (decryptedWork i s)) s)) := by
  rcases mem_unpaddingCommands.1 hi with rfl | rfl
  · exact congrArg Host.Outcome.next (modePrologue_ecb hctx)
  · rcases hiv with h | h | ⟨-, hcnt⟩
    · cases h
    · cases h
    · exact congrArg Host.Outcome.next (modePrologue_ready hctx hcnt)

theorem exec_unpadding_partial (hi : i ∈ unpaddingCommands) (hctx : s.ctxValid = true) (hiv : IvSuffices i s)
    (hlen : s.ibuf.length % 16 ≠ 0) : exec i s = .next (complete (.error .invalidBlockSize) s) := by
  rw [exec_unpadding_ready hi hctx hiv, wholeBlocks_reject hlen]

theorem exec_unpadding_whole (hi : i ∈ unpaddingCommands) (hctx : s.ctxValid = true) (hiv : IvSuffices i s)
    (hlen : s.ibuf.length % 16 = 0) : exec i s = .next (complete (removePadding (decryptedWork i s)) s) := by
  rw [exec_unpadding_ready hi hctx hiv, wholeBlocks_pass hlen]

/-- No padding is valid in an empty string (R195). -/
theorem exec_unpadding_empty (hi : i ∈ unpaddingCommands) (hctx : s.ctxValid = true) (hiv : IvSuffices i s)
    (hbuf : s.ibuf = []) : exec i s = .next (complete (.error .invalidPadding) s) := by
  have hlen : s.ibuf.length % 16 = 0 := by rw [hbuf]; rfl
  have hwork : decryptedWork i s = [] := List.length_eq_zero_iff.1 (by rw [decryptedWork_length i hlen, hbuf]; rfl)
  rw [exec_unpadding_whole hi hctx hiv hlen, hwork]
  rfl

/-- A mode command that does not unpad cannot fail past the prologue (R194). -/
theorem exec_mode_ok (hi : i ∉ unpaddingCommands) (hctx : s.ctxValid = true) (hiv : IvSuffices i s) :
    ∃ out, exec i s = .next (complete (.ok out) s) := by
  rcases hiv with rfl | rfl | ⟨hc, hcnt⟩
  · exact ⟨_, exec_ecbEnc_ready hctx⟩
  · exact absurd (by decide) hi
  · simp only [chainedCommands, List.mem_cons, List.not_mem_nil, or_false] at hc
    rcases hc with rfl | rfl | rfl | rfl | hc
    · exact ⟨_, exec_cbcEnc_ready hctx hcnt⟩
    · exact absurd (by decide) hi
    · exact ⟨_, exec_cfbEnc_ready hctx hcnt⟩
    · exact ⟨_, exec_cfbDec_ready hctx hcnt⟩
    · exact ⟨_, exec_ctr_ready hc hctx hcnt⟩

/-- Decrypted data end an unpadding command in one of the two ways of R212. -/
theorem unpadsTo_decryptedWork (hi : i ∈ unpaddingCommands) (hctx : s.ctxValid = true) (hiv : IvSuffices i s)
    (hlen : s.ibuf.length % 16 = 0) : UnpadsTo i s (decryptedWork i s) := by
  have hexec := exec_unpadding_whole hi hctx hiv hlen
  rcases removePadding_cases (decryptedWork i s) with ⟨plain, hp, h⟩ | ⟨hno, h⟩ <;> rw [h] at hexec
  · exact .inl ⟨plain, hp, hexec⟩
  · exact .inr ⟨hno, hexec⟩

/-! ### Decryption commands on what the encryption commands wrote (R193) -/

/-- Decrypted data that are a padded message give the message back. -/
theorem exec_unpadding_addPadding {m : List Byte} (hi : i ∈ unpaddingCommands) (hctx : s.ctxValid = true)
    (hiv : IvSuffices i s) (hlen : s.ibuf.length % 16 = 0) (hwork : decryptedWork i s = addPadding m) :
    exec i s = .next (complete (.ok m) s) := by
  rw [exec_unpadding_whole hi hctx hiv hlen, hwork, removePadding_addPadding]

theorem exec_ecbDec_ecbEncrypt {m : List Byte} (hctx : s.ctxValid = true)
    (hbuf : s.ibuf = ecbEncrypt s.rk (blocksOf (addPadding m))) : exec .ecbDec s = .next (complete (.ok m) s) := by
  have hwork : decryptedWork .ecbDec s = ecbDecrypt s.rk (blocksOf s.ibuf) := if_pos rfl
  refine exec_unpadding_addPadding (by decide) hctx (.inr (.inl rfl)) ?_ ?_
  · rw [hbuf, ecbEncrypt_length, Nat.mul_mod_right]
  · rw [hwork, hbuf, ecbDecrypt_ecbEncrypt _ (addPadding_length_mod m)]

theorem exec_cbcDec_cbcEncrypt {m : List Byte} (hctx : s.ctxValid = true) (hcnt : s.ivcnt = 16)
    (hbuf : s.ibuf = cbcEncrypt s.rk (stagedIv s) (blocksOf (addPadding m))) :
    exec .cbcDec s = .next (complete (.ok m) s) := by
  have hwork : decryptedWork .cbcDec s = cbcDecrypt s.rk (stagedIv s) (blocksOf s.ibuf) := if_neg nofun
  refine exec_unpadding_addPadding (by decide) hctx (.inr (.inr ⟨by decide, hcnt⟩)) ?_ ?_
  · rw [hbuf, cbcEncrypt_length, Nat.mul_mod_right]
  · rw [hwork, hbuf, cbcDecrypt_cbcEncrypt _ _ (addPadding_length_mod m)]

theorem exec_cfbDec_cfbEncrypt {m : List Byte} (hctx : s.ctxValid = true) (hcnt : s.ivcnt = 16)
    (hbuf : s.ibuf = cfbEncrypt s.rk (stagedIv s) (blocksOf m)) : exec .cfbDec s = .next (complete (.ok m) s) := by
  rw [exec_cfbDec_ready hctx hcnt, hbuf, cfbDecrypt_cfbEncrypt]

theorem exec_ctrDec_ctrCrypt {m : List Byte} (hctx : s.ctxValid = true) (hcnt : s.ivcnt = 16)
    (hbuf : s.ibuf = ctrCrypt s.rk (stagedIv s) 0 (blocksOf m)) : exec .ctrDec s = .next (complete (.ok m) s) := by
  rw [exec_ctr_ready (.inr rfl) hctx hcnt, hbuf, ctrCrypt_ctrCrypt]

/-! ### A command that answered OK ran its body -/

/-- The other three ends of the mode prologue are a fault or MissingIv. -/
theorem modePrologue_eq_body_of_ok {m : Mode} {body : State} (ht : (modePrologue m s body).fault = false)
    (hr : (modePrologue m s body).result = 0x00) : modePrologue m s body = body := by
  rcases modePrologue_cases m s body with ⟨-, h⟩ | ⟨-, -, -, h⟩ | ⟨-, -, -, -, h⟩ | ⟨-, -, h⟩
  · rw [h] at ht; cases ht
  · rw [h] at hr; exact absurd hr (by decide : (0x04 : Byte) ≠ 0x00)
  · rw [h] at ht; cases ht
  · exact h

theorem wholeBlocks_of_ok {body : State} (hr : (wholeBlocks s body).result = 0x00) :
    s.ibuf.length % 16 = 0 ∧ wholeBlocks s body = body := by
  by_cases hlen : s.icnt % 16 = 0
  · exact ⟨hlen, wholeBlocks_pass hlen⟩
  · rw [wholeBlocks_reject hlen] at hr; exact absurd hr (by decide : (0x02 : Byte) ≠ 0x00)

/-- An unpadding command that answered OK removed a valid padding from whole decrypted blocks. -/
theorem exec_unpadding_of_ok (hi : i ∈ unpaddingCommands) (h : exec i s = .next t) (ht : t.fault = false)
    (hr : t.result = 0x00) : s.ibuf.length % 16 = 0 ∧ IsPaddingOf t.obuf (decryptedWork i s) := by
  have hmode : ∃ m, t = modePrologue m s (wholeBlocks s (complete (removePadding (decryptedWork i s)) s)) := by
    rcases mem_unpaddingCommands.1 hi with rfl | rfl
    · cases h; exact ⟨.ecb, rfl⟩
    · cases h; exact ⟨.cbc, rfl⟩
  obtain ⟨m, rfl⟩ := hmode
  have hmode := modePrologue_eq_body_of_ok ht hr
  rw [hmode] at hr ⊢
  obtain ⟨hlen, hbody⟩ := wholeBlocks_of_ok hr
  rw [hbody] at hr ⊢
  refine ⟨hlen, ?_⟩
  rcases removePadding_cases (decryptedWork i s) with ⟨plain, hp, h'⟩ | ⟨-, h'⟩ <;> rw [h'] at hr ⊢
  · exact hp
  · exact absurd hr (by decide : (0x03 : Byte) ≠ 0x00)

/-! ### Output lengths (R195) -/

theorem exec_obuf_of_error (h : exec i s = .next t) (ht : t.fault = false) (hr : t.result ≠ 0x00) : t.obuf = [] := by
  rcases exec_next_cases h with ⟨r, rfl⟩ | ⟨-, -, rfl⟩ | ⟨c, rfl⟩
  · cases r with
    | ok bytes => exact absurd rfl hr
    | error e => rfl
  · rfl
  · cases ht

theorem exec_paddingEnc_length (hi : i = .ecbEnc ∨ i = .cbcEnc) (h : exec i s = .next t) (ht : t.fault = false)
    (hr : t.result = 0x00) : t.obuf.length = 16 * (s.ibuf.length / 16 + 1) := by
  rcases hi with rfl | rfl <;> cases h <;> rw [modePrologue_eq_body_of_ok ht hr]
  · exact ecbEncrypt_addPadding_length _ _
  · exact cbcEncrypt_addPadding_length _ _ _

theorem exec_stream_length (hi : i = .cfbEnc ∨ i = .cfbDec ∨ i = .ctrEnc ∨ i = .ctrDec) (h : exec i s = .next t)
    (ht : t.fault = false) (hr : t.result = 0x00) : t.obuf.length = s.ibuf.length := by
  rcases hi with rfl | rfl | rfl | rfl <;> cases h <;> rw [modePrologue_eq_body_of_ok ht hr]
  · exact cfbEncrypt_length _ _ _
  · exact cfbDecrypt_length _ _ _
  · exact ctrCrypt_length _ _ _ _
  · exact ctrCrypt_length _ _ _ _

end Sys2Proof.Machine

namespace Sys2Proof.Proofs

open Sys2Proof Sys2Proof.Machine Sys2Proof.Statements

/-- Settles O38: a context is all that ECB asks for, and ECB is `E` on each block of the padded message. -/
theorem ecbEncEncryptsEveryBlock : Obligations.EcbEncEncryptsEveryBlock := by
  rintro s ⟨-, hctx⟩
  refine ⟨_, exec_ecbEnc_ready hctx, ecbEncrypt_addPadding_length _ _, fun i hi => ?_⟩
  rw [← addPadding_eq_padded]
  exact blockAt_ecbEncrypt _ (by rwa [nblocks_addPadding])

/-- Settles O39: each block of the output is chained from the output's block before it. -/
theorem cbcEncChainsCiphertext : Obligations.CbcEncChainsCiphertext := by
  intro s iv h
  obtain ⟨hctx, hcnt, rfl⟩ := readyIv_operands h
  refine ⟨_, exec_cbcEnc_ready hctx hcnt, cbcEncrypt_addPadding_length _ _ _, fun i hi => ?_⟩
  rw [← addPadding_eq_padded]
  exact blockAt_cbcEncrypt _ _ (by rwa [nblocks_addPadding])

/-- Settles O40: the data that `remove_padding` is given are `D` of each block. -/
theorem ecbDecDecryptsAndUnpads : Obligations.EcbDecDecryptsAndUnpads := by
  rintro s ⟨-, hctx⟩
  have hiv : IvSuffices .ecbDec s := .inr (.inl rfl)
  refine ⟨exec_unpadding_partial (by decide) hctx hiv, fun hlen => ?_⟩
  exact ⟨_, decryptedWork_length .ecbDec hlen, fun i hi => blockAt_ecbDecrypt _ (hi.trans_le (div_le_nblocks _)),
    unpadsTo_decryptedWork (by decide) hctx hiv hlen⟩

/-- Settles O41: as O40, each block unchained with the ciphertext block before it. -/
theorem cbcDecDecryptsAndUnpads : Obligations.CbcDecDecryptsAndUnpads := by
  intro s iv h
  obtain ⟨hctx, hcnt, rfl⟩ := readyIv_operands h
  have hiv : IvSuffices .cbcDec s := .inr (.inr ⟨by decide, hcnt⟩)
  refine ⟨exec_unpadding_partial (by decide) hctx hiv, fun hlen => ?_⟩
  exact ⟨_, decryptedWork_length .cbcDec hlen, fun i hi => blockAt_cbcDecrypt _ _ (hi.trans_le (div_le_nblocks _)),
    unpadsTo_decryptedWork (by decide) hctx hiv hlen⟩

/-- Settles O42: the registers are the IV and the blocks of the output. -/
theorem cfbEncFeedsBackCiphertext : Obligations.CfbEncFeedsBackCiphertext := by
  intro s iv h
  obtain ⟨hctx, hcnt, rfl⟩ := readyIv_operands h
  refine ⟨_, exec_cfbEnc_ready hctx hcnt, cfbEncrypt_length _ _ _, fun j hj => ?_⟩
  rw [← previousBlock_div]
  exact cfbEncrypt_xorsKeystream _ _ _ j hj

/-- Settles O43: the registers are the IV and the blocks of the input. -/
theorem cfbDecFeedsBackItsInput : Obligations.CfbDecFeedsBackItsInput := by
  intro s iv h
  obtain ⟨hctx, hcnt, rfl⟩ := readyIv_operands h
  refine ⟨_, exec_cfbDec_ready hctx hcnt, cfbDecrypt_length _ _ _, fun j hj => ?_⟩
  rw [← previousBlock_div]
  exact cfbDecrypt_xorsKeystream _ _ _ j hj

/-- Settles O44: the registers are the counter blocks from index 0 on. -/
theorem ctrXorsTheCounterKeystream : Obligations.CtrXorsTheCounterKeystream := by
  intro i s iv hi h
  obtain ⟨hctx, hcnt, rfl⟩ := readyIv_operands h
  exact ⟨_, exec_ctr_ready hi hctx hcnt, ctrCrypt_length _ _ _ _, ctrCrypt_zero_xorsKeystream _ _ _⟩

/-- Settles O46: what the encryption command wrote is what its mode's decryption undoes, under the same `RK` and IV. -/
theorem modesRoundTrip : Obligations.ModesRoundTrip := by
  intro p hp s iv hs hsiv
  obtain ⟨-, hctx⟩ := hs
  simp only [modePairs, List.mem_cons, List.not_mem_nil, or_false] at hp
  rcases hp with rfl | rfl | rfl | rfl
  · refine ⟨_, exec_ecbEnc_ready hctx, rfl, fun u ⟨_, huctx⟩ hrk hbuf _ => exec_ecbDec_ecbEncrypt huctx ?_⟩
    rw [hrk]; exact hbuf
  · obtain ⟨-, hcnt, rfl⟩ := readyIv_operands (hsiv.resolve_left nofun)
    refine ⟨_, exec_cbcEnc_ready hctx hcnt, rfl, fun u ⟨_, huctx⟩ hrk hbuf huiv => ?_⟩
    obtain ⟨-, hucnt, hiv⟩ := readyIv_operands (huiv.resolve_left nofun)
    exact exec_cbcDec_cbcEncrypt huctx hucnt (by rw [hrk, hiv]; exact hbuf)
  · obtain ⟨-, hcnt, rfl⟩ := readyIv_operands (hsiv.resolve_left nofun)
    refine ⟨_, exec_cfbEnc_ready hctx hcnt, rfl, fun u ⟨_, huctx⟩ hrk hbuf huiv => ?_⟩
    obtain ⟨-, hucnt, hiv⟩ := readyIv_operands (huiv.resolve_left nofun)
    exact exec_cfbDec_cfbEncrypt huctx hucnt (by rw [hrk, hiv]; exact hbuf)
  · obtain ⟨-, hcnt, rfl⟩ := readyIv_operands (hsiv.resolve_left nofun)
    refine ⟨_, exec_ctr_ready (.inl rfl) hctx hcnt, rfl, fun u ⟨_, huctx⟩ hrk hbuf huiv => ?_⟩
    obtain ⟨-, hucnt, hiv⟩ := readyIv_operands (huiv.resolve_left nofun)
    exact exec_ctrDec_ctrCrypt huctx hucnt (by rw [hrk, hiv]; exact hbuf)

/-- Settles O47: a command that answered OK ran its body, whose length is the mode's; an empty message passes every check
but the one for a valid padding. -/
theorem modeOutputLengths : Obligations.ModeOutputLengths := by
  constructor
  · intro i s t _ h ht
    refine ⟨fun hr => congrArg List.length (exec_obuf_of_error h ht hr), fun hr =>
      ⟨fun hi => exec_paddingEnc_length hi h ht hr, fun hi => ?_, fun hi => exec_stream_length hi h ht hr⟩⟩
    obtain ⟨hlen, hpad⟩ := exec_unpadding_of_ok hi h ht hr
    obtain ⟨l, hlast, h1, h16, hsum⟩ := getLast?_of_isPaddingOf hpad
    exact ⟨l, hlast, h1, h16, hsum.trans (decryptedWork_length i hlen)⟩
  · rintro i s ⟨hf, hctx⟩ hbuf (hiv : IvSuffices i s)
    by_cases hi : i ∈ unpaddingCommands
    · refine ⟨_, exec_unpadding_empty hi hctx hiv hbuf, hf, fun hi' => ?_, fun _ => ⟨rfl, rfl⟩, fun hi' => ?_⟩
      · rcases hi' with rfl | rfl <;> exact absurd hi (by decide)
      · rcases hi' with rfl | rfl | rfl | rfl <;> exact absurd hi (by decide)
    · obtain ⟨out, h⟩ := exec_mode_ok hi hctx hiv
      refine ⟨_, h, hf, fun hi' => ⟨rfl, ?_⟩, fun hi' => absurd hi' hi, fun hi' => ⟨rfl, ?_⟩⟩
      · have hlen := exec_paddingEnc_length hi' h hf rfl
        rwa [hbuf] at hlen
      · have hlen := exec_stream_length hi' h hf rfl
        rwa [hbuf] at hlen

end Sys2Proof.Proofs

/-! SUPPORT. The counter of CTR (R192): `be128` is the little-endian value of the reversed block, `bytes128` writes the
digits of a number, and the byte-wise increment adds 1. -/

namespace Sys2Proof.Machine

open Statements

/-! ### Byte strings as numbers, least significant byte first -/

/-- The value of a byte string, least significant byte first. -/
def littleEndian (l : List Byte) : Nat := Nat.ofDigits 256 (l.map BitVec.toNat)

@[simp] theorem littleEndian_nil : littleEndian [] = 0 := rfl

@[simp] theorem littleEndian_cons (v : Byte) (l : List Byte) : littleEndian (v :: l) = v.toNat + 256 * littleEndian l :=
  Nat.ofDigits_cons

theorem digits_lt (l : List Byte) : ∀ n ∈ l.map BitVec.toNat, n < 256 := by
  intro n hn
  obtain ⟨v, -, rfl⟩ := List.mem_map.1 hn
  exact v.isLt

theorem littleEndian_lt (l : List Byte) : littleEndian l < 256 ^ l.length := by
  simpa [littleEndian] using Nat.ofDigits_lt_base_pow_length (b := 256) (by decide) (digits_lt l)

theorem eq_of_littleEndian_eq {l l' : List Byte} (hlen : l.length = l'.length) (h : littleEndian l = littleEndian l') :
    l = l' :=
  List.map_injective_iff.2 (fun _ _ => BitVec.eq_of_toNat_eq)
    (Nat.ofDigits_inj_of_len_eq (b := 256) (by decide) (by simpa using hlen) (digits_lt l) (digits_lt l') h)

/-- The base-256 digits of a number, cut off after `n` of them. -/
theorem littleEndian_digits (n v : Nat) :
    littleEndian (List.ofFn fun k : Fin n => BitVec.ofNat 8 (v / 256 ^ k.val)) = v % 256 ^ n := by
  induction n generalizing v with
  | zero => simp [Nat.mod_one]
  | succ n ih =>
    have hdigit (k : Fin n) : v / 256 ^ (k.val + 1) = v / 256 / 256 ^ k.val := by
      rw [Nat.pow_succ', Nat.div_div_eq_div_mul]
    rw [List.ofFn_succ, littleEndian_cons, Nat.pow_succ', Nat.mod_mul]
    simp only [Fin.val_zero, Nat.pow_zero, Nat.div_one, Fin.val_succ, hdigit, ih, BitVec.toNat_ofNat]

@[simp] theorem incrementLow_length (l : List Byte) : (incrementLow l).length = l.length := by
  induction l with
  | nil => rfl
  | cons v l ih => rw [incrementLow]; split <;> simp [ih]

/-- The carry of R192 is addition of 1, modulo the size of the string. -/
theorem littleEndian_incrementLow (l : List Byte) :
    littleEndian (incrementLow l) = (littleEndian l + 1) % 256 ^ l.length := by
  induction l with
  | nil => simp [incrementLow]
  | cons v l ih =>
    rw [incrementLow, List.length_cons, Nat.pow_succ', littleEndian_cons]
    split
    next hv =>
      have hsum : v.toNat + 256 * littleEndian l + 1 = 256 * (littleEndian l + 1) := by
        rw [hv]; simp; omega
      rw [hsum, Nat.mul_mod_mul_left, ← ih]
      simp
    next hv =>
      have hv255 : v.toNat ≠ 255 := fun h => hv (BitVec.eq_of_toNat_eq h)
      have hvlt := v.isLt
      have hnext : (v + 1).toNat = v.toNat + 1 := by simp; omega
      have hl := littleEndian_lt l
      rw [littleEndian_cons, hnext, Nat.mod_eq_of_lt (by omega)]
      omega

/-! ### `be128` and `bytes128` -/

/-- A block has as many values as a 128-bit number. -/
theorem block_values : 256 ^ 16 = 2 ^ 128 := by norm_num

/-- Byte 0 is the most significant (R192). -/
theorem be128_eq_littleEndian (x : Block) : be128 x = littleEndian x.toList.reverse := by
  simp only [be128, littleEndian, Nat.ofDigits_eq_foldr, List.foldr_map, List.foldr_reverse]
  congr
  funext acc v
  simp; omega

/-- Horner's scheme written out as a sum. -/
theorem foldl_bigEndian_eq_sum (l : List Byte) (acc : Nat) :
    l.foldl (fun acc v => acc * 256 + v.toNat) acc =
      acc * 256 ^ l.length + ∑ j ∈ Finset.range l.length, (l.getD j 0).toNat * 256 ^ (l.length - 1 - j) := by
  induction l generalizing acc with
  | nil => simp
  | cons v l ih =>
    simp only [List.foldl_cons, ih, List.length_cons, Finset.sum_range_succ', List.getD_cons_succ, List.getD_cons_zero,
      Nat.add_sub_cancel, Nat.sub_zero, Nat.sub_sub, Nat.add_comm 1]
    ring

theorem be128_eq_sum (x : Block) : be128 x = ∑ j : Fin 16, x[j.val].toNat * 256 ^ (15 - j.val) := by
  have hlen : x.toList.length = 16 := by simp
  rw [be128, foldl_bigEndian_eq_sum, hlen, Finset.sum_range, Nat.zero_mul, Nat.zero_add]
  refine Finset.sum_congr rfl fun j _ => ?_
  simp [List.getD_eq_getElem?_getD]

theorem be128_lt (x : Block) : be128 x < 2 ^ 128 := by
  simpa [be128_eq_littleEndian] using littleEndian_lt x.toList.reverse

theorem be128_injective : Function.Injective be128 := by
  intro x y h
  rw [be128_eq_littleEndian, be128_eq_littleEndian] at h
  exact Vector.toList_inj.1 (List.reverse_injective (eq_of_littleEndian_eq (by simp) h))

/-- `bytes128` writes the low 16 base-256 digits of a number. -/
theorem be128_bytes128 (v : Nat) : be128 (bytes128 v) = v % 2 ^ 128 := by
  have hdigits : (bytes128 v).toList.reverse = List.ofFn fun k : Fin 16 => BitVec.ofNat 8 (v / 256 ^ k.val) := by
    apply List.ext_getElem
    · simp
    · intro k h1 h2
      have hback : 15 - (16 - 1 - k) = k := by simp only [List.length_ofFn] at h2; omega
      simp only [bytes128, List.getElem_reverse, Vector.getElem_toList, Vector.getElem_ofFn, Vector.length_toList,
        List.getElem_ofFn, hback]
  rw [be128_eq_littleEndian, hdigits, littleEndian_digits, block_values]

theorem bytes128_be128 (x : Block) : bytes128 (be128 x) = x :=
  be128_injective (by rw [be128_bytes128, Nat.mod_eq_of_lt (be128_lt x)])

theorem be128_ctrBlock (iv : Block) (i : Nat) : be128 (ctrBlock iv i) = (be128 iv + i) % 2 ^ 128 := by
  rw [ctrBlock, be128_bytes128, Nat.mod_mod]

theorem ctrBlock_zero (iv : Block) : ctrBlock iv 0 = iv :=
  be128_injective (by rw [be128_ctrBlock, Nat.add_zero, Nat.mod_eq_of_lt (be128_lt iv)])

/-- The next counter block is the increment of the last one, read from byte 15 towards byte 0 (R192). -/
theorem ctrBlock_succ_reverse (iv : Block) (i : Nat) :
    (ctrBlock iv (i + 1)).toList.reverse = incrementLow (ctrBlock iv i).toList.reverse := by
  apply eq_of_littleEndian_eq
  · simp
  · have hlen : (ctrBlock iv i).toList.reverse.length = 16 := by simp
    rw [littleEndian_incrementLow, ← be128_eq_littleEndian, ← be128_eq_littleEndian, be128_ctrBlock, be128_ctrBlock, hlen,
      block_values, Nat.mod_add_mod, Nat.add_assoc]

end Sys2Proof.Machine

namespace Sys2Proof.Proofs

open Sys2Proof Sys2Proof.Machine

/-- Settles O45: blocks and numbers below 2^128 are the same by `be128`, so each law is one of numbers; the four examples
are closed. -/
theorem counterIsBigEndianModulo128 : Obligations.CounterIsBigEndianModulo128 := by
  refine ⟨be128_eq_sum, be128_ctrBlock, bytes128_be128, fun v hv => ?_, ctrBlock_zero, fun iv i => ?_, ?_⟩
  · rw [be128_bytes128, Nat.mod_eq_of_lt hv]
  · rw [← ctrBlock_succ_reverse, List.reverse_reverse]
  · decide +kernel

end Sys2Proof.Proofs

/-! SUPPORT. The fault causes and result codes of the commands (R194, R231, R236): no command ends outside its lists, and
each listed end is reached from a state of the invariant. -/

namespace Sys2Proof.Machine

open Statements

variable {i : Instr} {s t body : State} {causes codes : List Byte}

/-! ### No other end -/

/-- A state whose fault cause, or result code in a live engine, is one of the listed. -/
structure EndsWithin (causes codes : List Byte) (t : State) : Prop where
  cause : t.fault = true → t.faultCause ∈ causes
  code : t.fault = false → t.result ∈ codes

theorem raiseFault_endsWithin {c : FaultCause} (h : causeByte c ∈ causes) :
    EndsWithin causes codes (raiseFault c s) :=
  ⟨fun _ => h, nofun⟩

theorem complete_endsWithin {r : Reply} (hf : s.fault = false) (h : replyCode r ∈ codes) :
    EndsWithin causes codes (complete r s) :=
  ⟨fun ht => absurd (hf.symm.trans ht) nofun, fun _ => h⟩

theorem blockPrologue_endsWithin (h : 0x02 ∈ causes ∧ 0x03 ∈ causes) (hb : EndsWithin causes codes body) :
    EndsWithin causes codes (blockPrologue s body) := by
  rcases blockPrologue_cases s body with ⟨-, h'⟩ | ⟨-, -, h'⟩ | ⟨-, -, h'⟩ <;> rw [h']
  · exact raiseFault_endsWithin h.2
  · exact raiseFault_endsWithin h.1
  · exact hb

/-- Only a mode other than ECB can miss its IV or find it malformed (R182). -/
theorem modePrologue_endsWithin {m : Mode} (hf : s.fault = false) (hctx : 0x03 ∈ causes)
    (hiv : m ≠ .ecb → 0x04 ∈ causes ∧ 0x04 ∈ codes) (hb : EndsWithin causes codes body) :
    EndsWithin causes codes (modePrologue m s body) := by
  rcases modePrologue_cases m s body with ⟨-, h⟩ | ⟨-, hm, -, h⟩ | ⟨-, hm, -, -, h⟩ | ⟨-, -, h⟩ <;> rw [h]
  · exact raiseFault_endsWithin hctx
  · exact complete_endsWithin hf (hiv hm).2
  · exact raiseFault_endsWithin (hiv hm).1
  · exact hb

/-- Past its prologue an unpadding command can answer OK, InvalidBlockSize or InvalidPadding (R184, R212). -/
theorem wholeBlocks_removePadding_endsWithin (work : List Byte) (hf : s.fault = false)
    (h : 0x00 ∈ codes ∧ 0x02 ∈ codes ∧ 0x03 ∈ codes) :
    EndsWithin causes codes (wholeBlocks s (complete (removePadding work) s)) := by
  obtain ⟨hok, hsize, hpad⟩ := h
  by_cases hlen : s.icnt % 16 = 0
  · rw [wholeBlocks_pass hlen]
    rcases removePadding_cases work with ⟨plain, -, h⟩ | ⟨-, h⟩ <;> rw [h]
    · exact complete_endsWithin hf hok
    · exact complete_endsWithin hf hpad
  · rw [wholeBlocks_reject hlen]
    exact complete_endsWithin hf hsize

theorem exec_endsWithin (hf : s.fault = false) (h : exec i s = .next t) :
    EndsWithin (possibleCauses i) (possibleResults i) t := by
  have ok {causes codes : List Byte} {bytes : List Byte} (h : 0x00 ∈ codes) :
      EndsWithin causes codes (complete (.ok bytes) s) := complete_endsWithin hf h
  cases i <;> cases h
  case loadKey =>
    split
    · exact complete_endsWithin hf (by decide)
    · exact complete_endsWithin hf (by decide)
  case flush => exact ok (by decide)
  case encBlock => exact blockPrologue_endsWithin (by decide) (ok (by decide))
  case decBlock => exact blockPrologue_endsWithin (by decide) (ok (by decide))
  case ecbEnc => exact modePrologue_endsWithin hf (by decide) (by decide) (ok (by decide))
  case ecbDec =>
    exact modePrologue_endsWithin hf (by decide) (by decide) (wholeBlocks_removePadding_endsWithin _ hf (by decide))
  case cbcEnc => exact modePrologue_endsWithin hf (by decide) (by decide) (ok (by decide))
  case cbcDec =>
    exact modePrologue_endsWithin hf (by decide) (by decide) (wholeBlocks_removePadding_endsWithin _ hf (by decide))
  case cfbEnc => exact modePrologue_endsWithin hf (by decide) (by decide) (ok (by decide))
  case cfbDec => exact modePrologue_endsWithin hf (by decide) (by decide) (ok (by decide))
  case ctrEnc => exact modePrologue_endsWithin hf (by decide) (by decide) (ok (by decide))
  case ctrDec => exact modePrologue_endsWithin hf (by decide) (by decide) (ok (by decide))

/-! ### Each listed end is reached -/

/-- The command raises this cause from some live state of the invariant. -/
def CanRaise (i : Instr) (c : Byte) : Prop :=
  ∃ s t, s.Inv ∧ s.fault = false ∧ exec i s = .next t ∧ t.fault = true ∧ t.faultCause = c

/-- The command answers this code from some live state of the invariant. -/
def CanAnswer (i : Instr) (c : Byte) : Prop :=
  ∃ s t, s.Inv ∧ s.fault = false ∧ exec i s = .next t ∧ t.fault = false ∧ t.result = c

theorem canRaise_of_exec {c : FaultCause} (hs : s.Inv) (hf : s.fault = false)
    (h : exec i s = .next (raiseFault c s)) : CanRaise i (causeByte c) :=
  ⟨s, _, hs, hf, h, rfl, rfl⟩

theorem canAnswer_of_exec {r : Reply} (hs : s.Inv) (hf : s.fault = false)
    (h : exec i s = .next (complete r s)) : CanAnswer i (replyCode r) :=
  ⟨s, _, hs, hf, h, hf, rfl⟩

/-- The context of the states below: some expanded key. -/
def probeKeys : RoundKeys := expand (Vector.replicate 16 0)

/-- A live engine with a context and a staged key, `n` IV bytes and the message `m`. -/
def probe (n : Nat) (m : List Byte) : State :=
  { State.reset with
    keybuf := List.replicate 16 0, keycnt := 16, ivbuf := List.replicate (min n 16) 0, ivcnt := n, ibuf := m
    rk := probeKeys, ctxValid := true }

theorem probe_rk (n : Nat) (m : List Byte) : (probe n m).rk = probeKeys := rfl

theorem probe_ibuf (n : Nat) (m : List Byte) : (probe n m).ibuf = m := rfl

theorem stagedIv_probe (n : Nat) (m : List Byte) :
    stagedIv (probe n m) = toBlock (List.replicate (min n 16) 0) := rfl

theorem probe_inv {n : Nat} {m : List Byte} (hn : n ≤ 17) (hm : m.length ≤ 16) : (probe n m).Inv where
  live _ := { keycnt := by simp [probe], keybuf := by simp [probe], ivcnt := hn, ivbuf := List.length_replicate,
              icnt := hm.trans Proofs.resetStateHasEngineInvariant.capacity, ord := le_rfl, ocnt := Nat.zero_le _,
              context := fun _ => ⟨_, rfl⟩, cause := rfl }
  faulted := nofun
  result := Proofs.resetStateHasEngineInvariant.result
  capacity := Proofs.resetStateHasEngineInvariant.capacity

theorem canRaise_noContext (hi : i ∈ needsContext) : CanRaise i 0x03 :=
  canRaise_of_exec Proofs.resetStateHasEngineInvariant rfl (exec_noContext hi rfl)

theorem canRaise_badBlockLength (hi : i ∈ blockCommands) : CanRaise i 0x02 :=
  canRaise_of_exec (probe_inv (n := 0) (m := []) (by decide) (by decide)) rfl (exec_badBlockLength hi rfl nofun)

theorem canRaise_badIvLength (hi : i ∈ chainedCommands) : CanRaise i 0x04 :=
  canRaise_of_exec (probe_inv (n := 1) (m := []) (by decide) (by decide)) rfl
    (exec_badIvLength hi rfl nofun (by decide : 1 ≠ 16))

theorem canAnswer_invalidKeySize : CanAnswer .loadKey 0x01 :=
  canAnswer_of_exec Proofs.resetStateHasEngineInvariant rfl (exec_loadKey_invalid nofun)

theorem canAnswer_missingIv (hi : i ∈ chainedCommands) : CanAnswer i 0x04 :=
  canAnswer_of_exec (probe_inv (n := 0) (m := []) (by decide) (by decide)) rfl (exec_missingIv hi rfl rfl)

/-- With a whole IV staged every mode command passes its prologue. -/
theorem ivSuffices_probe (hi : i ∈ .ecbEnc :: .ecbDec :: chainedCommands) (m : List Byte) :
    IvSuffices i (probe 16 m) := by
  simp only [List.mem_cons] at hi
  exact hi.imp_right (Or.imp_right fun hc => ⟨hc, rfl⟩)

theorem unpadding_mem_modes (hi : i ∈ unpaddingCommands) : i ∈ .ecbEnc :: .ecbDec :: chainedCommands := by
  fin_cases hi <;> decide

theorem canAnswer_invalidBlockSize (hi : i ∈ unpaddingCommands) : CanAnswer i 0x02 :=
  canAnswer_of_exec (probe_inv (n := 16) (m := [0]) (by decide) (by decide)) rfl
    (exec_unpadding_partial hi rfl (ivSuffices_probe (unpadding_mem_modes hi) _) (by decide : 1 % 16 ≠ 0))

theorem canAnswer_invalidPadding (hi : i ∈ unpaddingCommands) : CanAnswer i 0x03 :=
  canAnswer_of_exec (probe_inv (n := 16) (m := []) (by decide) (by decide)) rfl
    (exec_unpadding_empty hi rfl (ivSuffices_probe (unpadding_mem_modes hi) _) rfl)

/-- A mode command that does not unpad answers OK to every message; an unpadding one to an encrypted empty message. -/
theorem canAnswer_ok_mode (hi : i ∈ .ecbEnc :: .ecbDec :: chainedCommands) : CanAnswer i 0x00 := by
  by_cases hu : i ∈ unpaddingCommands
  · rcases mem_unpaddingCommands.1 hu with rfl | rfl
    · exact canAnswer_of_exec (probe_inv (n := 16) (by decide) (ecbEncrypt_addPadding_length probeKeys []).le) rfl
        (exec_ecbDec_ecbEncrypt rfl (by rw [probe_rk, probe_ibuf]))
    · exact canAnswer_of_exec (probe_inv (n := 16) (by decide)
          (cbcEncrypt_addPadding_length probeKeys (toBlock (List.replicate (min 16 16) 0)) []).le) rfl
        (exec_cbcDec_cbcEncrypt rfl rfl (by rw [probe_rk, stagedIv_probe, probe_ibuf]))
  · obtain ⟨out, h⟩ := exec_mode_ok hu rfl (ivSuffices_probe hi [])
    exact canAnswer_of_exec (probe_inv (by decide) (by decide)) rfl h

theorem canAnswer_ok (i : Instr) : CanAnswer i 0x00 := by
  have block (b : Block) : (probe 0 b.toList).Inv := probe_inv (by decide) (by simp)
  cases i
  case loadKey =>
    exact ⟨probe 0 [], _, probe_inv (by decide) (by decide), rfl, exec_loadKey_valid rfl, rfl, rfl⟩
  case flush => exact canAnswer_of_exec (r := .ok []) Proofs.resetStateHasEngineInvariant rfl rfl
  case encBlock => exact canAnswer_of_exec (block (Vector.replicate 16 0)) rfl (exec_encBlock_ready ⟨rfl, rfl⟩ rfl)
  case decBlock => exact canAnswer_of_exec (block (Vector.replicate 16 0)) rfl (exec_decBlock_ready ⟨rfl, rfl⟩ rfl)
  all_goals exact canAnswer_ok_mode (by decide)

/-! ### The lists by the reason of each entry -/

theorem possibleCauses_cases {c : Byte} (h : c ∈ possibleCauses i) :
    (c = 0x03 ∧ i ∈ needsContext) ∨ (c = 0x02 ∧ i ∈ blockCommands) ∨ (c = 0x04 ∧ i ∈ chainedCommands) := by
  revert c
  cases i <;> decide

theorem possibleResults_cases {c : Byte} (h : c ∈ possibleResults i) :
    c = 0x00 ∨ (c = 0x01 ∧ i = .loadKey) ∨ (c = 0x02 ∧ i ∈ unpaddingCommands) ∨ (c = 0x03 ∧ i ∈ unpaddingCommands) ∨
      (c = 0x04 ∧ i ∈ chainedCommands) := by
  revert c
  cases i <;> decide

theorem canRaise_of_mem {c : Byte} (h : c ∈ possibleCauses i) : CanRaise i c := by
  rcases possibleCauses_cases h with ⟨rfl, hi⟩ | ⟨rfl, hi⟩ | ⟨rfl, hi⟩
  · exact canRaise_noContext hi
  · exact canRaise_badBlockLength hi
  · exact canRaise_badIvLength hi

theorem canAnswer_of_mem {c : Byte} (h : c ∈ possibleResults i) : CanAnswer i c := by
  rcases possibleResults_cases h with rfl | ⟨rfl, rfl⟩ | ⟨rfl, hi⟩ | ⟨rfl, hi⟩ | ⟨rfl, hi⟩
  · exact canAnswer_ok i
  · exact canAnswer_invalidKeySize
  · exact canAnswer_invalidBlockSize hi
  · exact canAnswer_invalidPadding hi
  · exact canAnswer_missingIv hi

end Sys2Proof.Machine

namespace Sys2Proof.Proofs

open Sys2Proof Sys2Proof.Machine

/-- Settles O14: a listed end is reached from a state written out for it, and the prologues and `remove_padding` end in no
other. -/
theorem commandsHaveExactlyTheirListedOutcomes : Obligations.CommandsHaveExactlyTheirListedOutcomes := by
  refine fun i c => ⟨⟨canRaise_of_mem, ?_⟩, ⟨canAnswer_of_mem, ?_⟩⟩
  · rintro ⟨s, t, -, hf, h, ht, rfl⟩
    exact (exec_endsWithin hf h).cause ht
  · rintro ⟨s, t, -, hf, h, ht, rfl⟩
    exact (exec_endsWithin hf h).code ht

end Sys2Proof.Proofs

/-! SUPPORT. Removal and adding as inverses of each other (R213). -/

namespace Sys2Proof.Machine

open Statements

theorem removePadding_eq_ok_iff {work plain : List Byte} : removePadding work = .ok plain ↔ IsPaddingOf plain work := by
  refine ⟨fun h => ?_, removePadding_of_isPaddingOf⟩
  rcases removePadding_cases work with ⟨p, hp, hok⟩ | ⟨-, herr⟩
  · cases hok.symm.trans h
    exact hp
  · cases herr.symm.trans h

theorem removePadding_eq_error {work : List Byte} (h : ¬ ∃ plain, IsPaddingOf plain work) :
    removePadding work = .error .invalidPadding :=
  (removePadding_cases work).elim (fun ⟨plain, hp, _⟩ => absurd ⟨plain, hp⟩ h) And.right

/-- Of the sixteen paddings a string can have behind it, only the one `add_padding` writes fills whole blocks. -/
theorem addPadding_of_isPaddingOf {plain work : List Byte} (h : IsPaddingOf plain work) (hlen : work.length % 16 = 0) :
    addPadding plain = work := by
  obtain ⟨n, h1, h16, rfl⟩ := h
  rw [List.length_append, padBytes_length] at hlen
  have hn : 16 - plain.length % 16 = n := by omega
  rw [addPadding_eq_padded, padded, hn]

end Sys2Proof.Machine

namespace Sys2Proof.Proofs

open Sys2Proof Sys2Proof.Machine

/-- Settles O37: removal answers Ok exactly on valid paddings, and what `add_padding` appends is the one that fills whole
blocks. -/
theorem paddingLaws : Obligations.PaddingLaws :=
  ⟨removePadding_addPadding, addPadding_eq_padded, fun _ _ => removePadding_eq_ok_iff, fun _ => removePadding_eq_error,
    fun _ _ hlen h => addPadding_of_isPaddingOf (removePadding_eq_ok_iff.1 h) hlen⟩

end Sys2Proof.Proofs

/-! SUPPORT. What `FLUSH` does (R220), and the completion of an OK reply as R233 writes it. -/

namespace Sys2Proof.Machine

open Statements

/-- `FLUSH` has no check before its completion: no context is asked for and no branch raises a fault. -/
theorem exec_flush (s : State) : exec .flush s = .next (complete (.ok []) s) := rfl

theorem complete_ok_eq_completed (out : List Byte) (s : State) : complete (.ok out) s = completed 0x00 out s := rfl

end Sys2Proof.Machine

namespace Sys2Proof.Proofs

open Sys2Proof Sys2Proof.Machine

/-- Settles O48: `FLUSH` is the completion of an empty OK reply, and under a fault no write has an effect. -/
theorem flushEmptiesTheBuffers : Obligations.FlushEmptiesTheBuffers := by
  constructor
  · intro s _
    rw [exec_flush, complete_ok_eq_completed]
  · exact fun _ _ hf hp => step_write_faulted hp hf

end Sys2Proof.Proofs

/-! SUPPORT. Entering the fault state (R236, R238), and what it shows the host (R237): it ignores writes and answers every
read with a fixed byte. -/

namespace Sys2Proof.Machine

open Statements

variable {s : State} {rest : List Transaction} {off : BitVec 3} {v : Byte}

theorem raiseFault_faultedWith (c : FaultCause) (s : State) : FaultedWith (causeByte c) s (raiseFault c s) :=
  ⟨rfl, rfl, rfl, rfl, rfl, rfl⟩

/-- A byte that does not decode raises IllegalCommand (R95). -/
theorem writeCmd_illegal (hd : decode v = .error .illegalCommand) :
    writeCmd v s = .next (raiseFault .illegalCommand s) := by
  simp only [writeCmd, hd]

theorem readByte_faulted (hf : s.fault = true) (r : HostReg) : readByte r s = faultRead s (offsetOf r) := by
  cases r
  case status => exact if_pos hf
  case dout => exact if_pos hf
  all_goals rfl

theorem readEffect_faulted (hf : s.fault = true) (r : HostReg) : readEffect r s = s := by
  rcases readEffect_cases r s with h | ⟨-, h⟩ <;> rw [h]
  exact if_pos hf

theorem readReg_faulted (hf : s.fault = true) (r : HostReg) : readReg r s = noteRead (faultRead s (offsetOf r)) s := by
  rw [readReg, readByte_faulted hf, readEffect_faulted hf]

/-- A read in the fault state takes its transaction off and gives the host the fixed byte of its offset (R237). -/
theorem step_read_faulted (hp : s.pending = .read off :: rest) (hf : s.fault = true) :
    step s = .next (noteRead (faultRead s off) (withPending rest s)) := by
  have hread := readReg_faulted (s := withPending rest s) hf (regOf off)
  rw [offsetOf_regOf] at hread
  exact (step_read hp).trans (congrArg _ hread)

end Sys2Proof.Machine

namespace Sys2Proof.Proofs

open Sys2Proof Sys2Proof.Machine

/-- Settles O18: the bytes of the ranges are those that do not decode. -/
theorem illegalCommandFaults : Obligations.IllegalCommandFaults := by
  intro s v rest hf hv hp
  have hd : decode v = .error .illegalCommand := decode_eq_error_iff.2 (illegalByte_iff.1 hv)
  exact ⟨_, (step_write_live hp hf).trans (writeCmd_illegal hd), raiseFault_faultedWith .illegalCommand _⟩

/-- Settles O19: a read in the fault state is its fixed byte, a write is nothing. -/
theorem faultStateIgnoresWritesAndFixesReads : Obligations.FaultStateIgnoresWritesAndFixesReads :=
  fun _ _ _ hf => ⟨fun _ hp => step_write_faulted hp hf, fun hp => step_read_faulted hp hf⟩

/-- Settles O10: of the events that can be next only a reset is more than nothing or a read of a fixed byte. -/
theorem onlyResetLeavesTheFaultState : Obligations.OnlyResetLeavesTheFaultState := by
  intro s t hf h
  cases hp : s.pending with
  | nil =>
    cases (step_nil hp).symm.trans h
    exact .inr ⟨hf, rfl, rfl⟩
  | cons e rest =>
    cases e with
    | reset =>
      cases (step_reset hp).symm.trans h
      exact .inl ⟨rest, rfl, rfl, rfl, rfl, rfl, rfl, rfl, rfl⟩
    | read off =>
      cases (step_read_faulted hp hf).symm.trans h
      exact .inr ⟨hf, rfl, rfl⟩
    | write off v =>
      cases (step_write_faulted hp hf).symm.trans h
      exact .inr ⟨hf, rfl, rfl⟩

end Sys2Proof.Proofs

/-! SUPPORT. Each shared operation keeps `SameToHost`, then each command, each event and each run (R26, R237, R274). A
fault or a reset draws free values, but only where the relation asks nothing of them. -/

namespace Sys2Proof.Machine

variable {s s' t t' body body' : State} {r : HostReg} {v : Byte}

/-- Where both states take the same branch, only the branches need to be related. -/
theorem ite_sameToHost {p p' : Prop} [Decidable p] [Decidable p'] (hp : p ↔ p') (ht : p → SameToHost t t')
    (hb : ¬ p → SameToHost body body') : SameToHost (if p then t else body) (if p' then t' else body') := by
  by_cases h : p
  · rw [if_pos h, if_pos (hp.1 h)]
    exact ht h
  · rw [if_neg h, if_neg (mt hp.2 h)]
    exact hb h

/-! ### Shared operations -/

/-- After a fault all hidden state is out of the host's sight. -/
theorem raiseFault_sameToHost (c : FaultCause) (h : SameToHost s s') : SameToHost (raiseFault c s) (raiseFault c s') :=
  { h with fault := rfl, faultCause := rfl, live := nofun }

/-- After a reset there is no context, so `RK` is out of the host's sight. -/
theorem resetEvent_sameToHost (h : SameToHost s s') : SameToHost (resetEvent s) (resetEvent s') :=
  { h with
    result := rfl, fault := rfl, faultCause := rfl
    live := fun _ => ⟨rfl, rfl, rfl, rfl, rfl, rfl, rfl, rfl, nofun⟩ }

theorem complete_sameToHost {y y' : Reply} (h : SameToHost s s') (hy : y = y') :
    SameToHost (complete y s) (complete y' s') := by
  subst hy
  exact { h with
    result := rfl
    live := fun hf => { h.live hf with
      keybuf := rfl, keycnt := rfl, ivbuf := rfl, ivcnt := rfl, ibuf := rfl, obuf := rfl, ord := rfl } }

theorem installContext_sameToHost {k k' : RoundKeys} (h : SameToHost s s') (hk : k = k') :
    SameToHost (installContext k s) (installContext k' s') :=
  { h with live := fun hf => { h.live hf with ctxValid := rfl, rk := fun _ => hk } }

theorem withPending_sameToHost (p : List Transaction) (h : SameToHost s s') :
    SameToHost (withPending p s) (withPending p s') :=
  { h with pending := rfl, live := fun hf => { h.live hf with } }

theorem noteRead_sameToHost {v' : Byte} (h : SameToHost s s') (hv : v = v') :
    SameToHost (noteRead v s) (noteRead v' s') :=
  { h with reads := congrArg₂ (fun l b => l ++ [b]) h.reads hv, live := fun hf => { h.live hf with } }

theorem pushKey_sameToHost (hf : s.fault = false) (h : SameToHost s s') : SameToHost (pushKey v s) (pushKey v s') := by
  have hlive := h.live hf
  exact { h with
    live := fun _ => { hlive with
      keybuf := congrArg₂ (storeByte · · v) hlive.keycnt hlive.keybuf
      keycnt := congrArg bumpCount hlive.keycnt } }

theorem pushIv_sameToHost (hf : s.fault = false) (h : SameToHost s s') : SameToHost (pushIv v s) (pushIv v s') := by
  have hlive := h.live hf
  exact { h with
    live := fun _ => { hlive with
      ivbuf := congrArg₂ (storeByte · · v) hlive.ivcnt hlive.ivbuf
      ivcnt := congrArg bumpCount hlive.ivcnt } }

theorem pushData_sameToHost (hf : s.fault = false) (h : SameToHost s s') : SameToHost (pushData v s) (pushData v s') := by
  have hlive := h.live hf
  have hbuf : s.ibuf = s'.ibuf := hlive.ibuf
  refine ite_sameToHost (by rw [icnt_eq_length, icnt_eq_length, hbuf, h.maxMsgBytes])
    (fun _ => raiseFault_sameToHost _ h) fun _ => ?_
  exact { h with live := fun _ => { hlive with ibuf := congrArg (· ++ [v]) hbuf } }

/-! ### Reads -/

theorem SameLive.ord_lt_ocnt_iff (h : SameLive s s') : s.ord < s.ocnt ↔ s'.ord < s'.ocnt := by
  rw [ocnt_eq_length, ocnt_eq_length, h.ord, h.obuf]

theorem statusByte_eq_of_sameToHost (h : SameToHost s s') : statusByte s = statusByte s' := by
  cases hf : s.fault
  · have hlive := h.live hf
    have havail : oavail s = oavail s' := decide_eq_decide.2 hlive.ord_lt_ocnt_iff
    rw [statusByte, statusByte, h.fault, hlive.ctxValid, havail]
  · exact (if_pos hf).trans (if_pos (h.fault ▸ hf)).symm

theorem doutByte_eq_of_sameToHost (hf : s.fault = false) (h : SameToHost s s') : doutByte s = doutByte s' := by
  have hlive := h.live hf
  simp only [doutByte, h.fault, hlive.ord, hlive.obuf]

theorem popDout_sameToHost (hf : s.fault = false) (h : SameToHost s s') : SameToHost (popDout s) (popDout s') := by
  have hlive := h.live hf
  refine ite_sameToHost (by rw [h.fault]) (fun _ => h) fun _ =>
    ite_sameToHost hlive.ord_lt_ocnt_iff (fun _ => ?_) fun _ => h
  exact { h with live := fun _ => { hlive with ord := congrArg (· + 1) hlive.ord } }

theorem readByte_eq_of_sameToHost (hf : s.fault = false) (h : SameToHost s s') : readByte r s = readByte r s' := by
  cases r
  case status => exact statusByte_eq_of_sameToHost h
  case result => exact h.result
  case faultCause => exact h.faultCause
  case dout => exact doutByte_eq_of_sameToHost hf h
  all_goals rfl

theorem readEffect_sameToHost (hf : s.fault = false) (h : SameToHost s s') :
    SameToHost (readEffect r s) (readEffect r s') := by
  cases r
  case dout => exact popDout_sameToHost hf h
  all_goals exact h

theorem readReg_sameToHost (h : SameToHost s s') : SameToHost (readReg r s) (readReg r s') := by
  cases hf : s.fault
  · exact noteRead_sameToHost (readEffect_sameToHost hf h) (readByte_eq_of_sameToHost hf h)
  · rw [readReg_faulted hf, readReg_faulted (h.fault ▸ hf)]
    exact noteRead_sameToHost h (by simp only [Statements.faultRead, h.result, h.faultCause])

/-! ### Prologues: the relation is asked of the bodies only where there is a context -/

theorem blockPrologue_sameToHost (hf : s.fault = false) (h : SameToHost s s')
    (hb : s.ctxValid = true → SameToHost body body') : SameToHost (blockPrologue s body) (blockPrologue s' body') := by
  have hlive := h.live hf
  exact ite_sameToHost (by rw [hlive.ctxValid]) (fun _ => raiseFault_sameToHost _ h) fun hctx =>
    ite_sameToHost (by rw [icnt_eq_length, icnt_eq_length, hlive.ibuf]) (fun _ => raiseFault_sameToHost _ h) fun _ =>
      hb (Bool.eq_true_of_not_eq_false hctx)

theorem modePrologue_sameToHost (m : Mode) (hf : s.fault = false) (h : SameToHost s s')
    (hb : s.ctxValid = true → SameToHost body body') : SameToHost (modePrologue m s body) (modePrologue m s' body') := by
  have hlive := h.live hf
  exact ite_sameToHost (by rw [hlive.ctxValid]) (fun _ => raiseFault_sameToHost _ h) fun hctx =>
    ite_sameToHost (by rw [hlive.ivcnt]) (fun _ => complete_sameToHost h rfl) fun _ =>
      ite_sameToHost (by rw [hlive.ivcnt]) (fun _ => raiseFault_sameToHost _ h) fun _ =>
        hb (Bool.eq_true_of_not_eq_false hctx)

theorem wholeBlocks_sameToHost (hf : s.fault = false) (h : SameToHost s s') (hb : SameToHost body body') :
    SameToHost (wholeBlocks s body) (wholeBlocks s' body') :=
  ite_sameToHost (by rw [icnt_eq_length, icnt_eq_length, (h.live hf).ibuf]) (fun _ => complete_sameToHost h rfl)
    fun _ => hb

/-! ### Commands -/

/-- Every operand of a command is the same in both states: `RK` because no command reads it without a context (R26). -/
theorem exec_sameToHost {i : Instr} (hf : s.fault = false) (h : SameToHost s s') (ht : exec i s = .next t)
    (ht' : exec i s' = .next t') : SameToHost t t' := by
  have hlive := h.live hf
  have hmsg : message s = message s' := hlive.ibuf
  have hblock : stagedBlock s = stagedBlock s' := congrArg toBlock hlive.ibuf
  have hiv : stagedIv s = stagedIv s' := congrArg toBlock hlive.ivbuf
  have hkey : stagedKey s = stagedKey s' := congrArg toBlock hlive.keybuf
  have hrk := hlive.rk
  cases i <;> cases ht <;> cases ht'
  case loadKey =>
    exact ite_sameToHost (by rw [hlive.keycnt]) (fun _ => complete_sameToHost h rfl) fun _ =>
      complete_sameToHost (installContext_sameToHost h (by rw [hkey])) rfl
  case flush => exact complete_sameToHost h rfl
  case encBlock =>
    exact blockPrologue_sameToHost hf h fun hctx => complete_sameToHost h (by rw [hrk hctx, hblock])
  case decBlock =>
    exact blockPrologue_sameToHost hf h fun hctx => complete_sameToHost h (by rw [hrk hctx, hblock])
  case ecbDec =>
    exact modePrologue_sameToHost _ hf h fun hctx => wholeBlocks_sameToHost hf h
      (complete_sameToHost h (by rw [hrk hctx, hmsg]))
  case cbcDec =>
    exact modePrologue_sameToHost _ hf h fun hctx => wholeBlocks_sameToHost hf h
      (complete_sameToHost h (by rw [hrk hctx, hiv, hmsg]))
  case ecbEnc =>
    exact modePrologue_sameToHost _ hf h fun hctx => complete_sameToHost h (by rw [hrk hctx, hmsg])
  all_goals exact modePrologue_sameToHost _ hf h fun hctx => complete_sameToHost h (by rw [hrk hctx, hiv, hmsg])

/-! ### Writes -/

theorem writeCmd_sameToHost (hf : s.fault = false) (h : SameToHost s s') (ht : writeCmd v s = .next t)
    (ht' : writeCmd v s' = .next t') : SameToHost t t' := by
  rcases decode_cases v with ⟨i, -, hd⟩ | hd
  · rw [writeCmd_ok hd] at ht ht'
    exact exec_sameToHost hf h ht ht'
  · cases (writeCmd_illegal hd).symm.trans ht
    cases (writeCmd_illegal hd).symm.trans ht'
    exact raiseFault_sameToHost _ h

theorem writeLive_sameToHost (hf : s.fault = false) (h : SameToHost s s') (ht : writeLive r v s = .next t)
    (ht' : writeLive r v s' = .next t') : SameToHost t t' := by
  cases r
  case cmd => exact writeCmd_sameToHost hf h ht ht'
  all_goals cases ht; cases ht'
  case keyIn => exact pushKey_sameToHost hf h
  case ivIn => exact pushIv_sameToHost hf h
  case din => exact pushData_sameToHost hf h
  all_goals exact h

theorem writeReg_sameToHost (h : SameToHost s s') (ht : writeReg r v s = .next t) (ht' : writeReg r v s' = .next t') :
    SameToHost t t' := by
  cases hf : s.fault
  · rw [writeReg_live hf] at ht
    rw [writeReg_live (h.fault ▸ hf)] at ht'
    exact writeLive_sameToHost hf h ht ht'
  · cases (writeReg_faulted hf r v).symm.trans ht
    cases (writeReg_faulted (h.fault ▸ hf) r v).symm.trans ht'
    exact h

/-! ### Steps and runs -/

theorem step_sameToHost (h : SameToHost s s') (ht : step s = .next t) (ht' : step s' = .next t') : SameToHost t t' := by
  cases hp : s.pending with
  | nil =>
    cases (step_nil hp).symm.trans ht
    cases (step_nil (h.pending ▸ hp)).symm.trans ht'
    exact h
  | cons e rest =>
    have hp' : s'.pending = e :: rest := h.pending ▸ hp
    have hrest := withPending_sameToHost rest h
    cases e with
    | reset =>
      cases (step_reset hp).symm.trans ht
      cases (step_reset hp').symm.trans ht'
      exact resetEvent_sameToHost hrest
    | read off =>
      cases (step_read hp).symm.trans ht
      cases (step_read hp').symm.trans ht'
      exact readReg_sameToHost hrest
    | write off v => exact writeReg_sameToHost hrest ((step_write hp).symm.trans ht) ((step_write hp').symm.trans ht')

/-- A run of one step more is a step and a run: every step answers a next state. -/
theorem exists_step_of_run_succ {n : Nat} (h : Host.Core.run core (n + 1) s = .next t) :
    ∃ u, step s = .next u ∧ Host.Core.run core n u = .next t := by
  obtain ⟨u, hu, -⟩ := Proofs.everyStepCompletesOneEvent s
  exact ⟨u, hu, run_succ hu n ▸ h⟩

theorem run_sameToHost {n : Nat} (h : SameToHost s s') (ht : Host.Core.run core n s = .next t)
    (ht' : Host.Core.run core n s' = .next t') : SameToHost t t' := by
  induction n generalizing s s' with
  | zero =>
    cases ht
    cases ht'
    exact h
  | succ n ih =>
    obtain ⟨u, hu, ht⟩ := exists_step_of_run_succ ht
    obtain ⟨u', hu', ht'⟩ := exists_step_of_run_succ ht'
    exact ih (step_sameToHost h hu hu') ht ht'

theorem observe_eq_of_sameToHost (h : SameToHost s s') : observe s = observe s' := by
  have hunread : (if s.fault then [] else s.obuf.drop s.ord) = if s'.fault then [] else s'.obuf.drop s'.ord := by
    rw [← h.fault]
    split
    · rfl
    next hf =>
      have hlive := h.live (Bool.eq_false_of_not_eq_true hf)
      rw [hlive.obuf, hlive.ord]
  simp only [observe, statusByte_eq_of_sameToHost h, h.result, h.faultCause, h.reads, hunread]

end Sys2Proof.Machine

namespace Sys2Proof.Proofs

open Sys2Proof Sys2Proof.Machine

/-- Settles O8: `SameToHost` is kept by every run and fixes what is observed. -/
theorem unspecifiedStateNeverReachesTheHost : Obligations.UnspecifiedStateNeverReachesTheHost := by
  intro n s s' t t' h ht ht'
  have hsame := run_sameToHost h ht ht'
  exact ⟨hsame, observe_eq_of_sameToHost hsame⟩

end Sys2Proof.Proofs

/-! SUPPORT. The checks of a command in their order (R243): each check's end by the lemma of its commands, and OK where
every check passes. -/

namespace Sys2Proof.Machine

open Statements

variable {i : Instr} {s t : State} {r : Reply} {c : FaultCause}

/-! ### Kinds of commands -/

theorem unpadding_needsContext (hi : i ∈ unpaddingCommands) : i ∈ needsContext := by fin_cases hi <;> decide

theorem chained_needsContext (hi : i ∈ chainedCommands) : i ∈ needsContext := by fin_cases hi <;> decide

theorem blockCommand_needsContext (hi : i ∈ blockCommands) : i ∈ needsContext := by fin_cases hi <;> decide

theorem mode_needsContext (hi : i ∈ .ecbEnc :: .ecbDec :: chainedCommands) : i ∈ needsContext := by
  fin_cases hi <;> decide

/-- A command loads a key, flushes, transforms a block or runs a mode (R92). -/
theorem command_kinds (i : Instr) :
    i = .loadKey ∨ i = .flush ∨ i ∈ blockCommands ∨ i ∈ .ecbEnc :: .ecbDec :: chainedCommands := by
  cases i <;> decide

/-- A mode command whose IV check passes has the IV it needs (R182). -/
theorem ivSuffices_of_mode (hi : i ∈ .ecbEnc :: .ecbDec :: chainedCommands) (hiv : i ∈ chainedCommands → s.ivcnt = 16) :
    IvSuffices i s := by
  simp only [List.mem_cons] at hi
  exact hi.imp_right (Or.imp_right fun hc => ⟨hc, hiv hc⟩)

theorem mem_blockCommands_of_cause (h : 0x02 ∈ possibleCauses i) : i ∈ blockCommands := by
  revert h
  cases i <;> decide

theorem mem_chainedCommands_of_cause (h : 0x04 ∈ possibleCauses i) : i ∈ chainedCommands := by
  revert h
  cases i <;> decide

/-! ### Commands whose checks pass -/

/-- A block command with a context and 16 staged bytes answers OK (R164, R165). -/
theorem exec_block_ok (hi : i ∈ blockCommands) (hs : Ready s) (hlen : s.ibuf.length = 16) :
    ∃ out, exec i s = .next (complete (.ok out) s) := by
  have hbuf : s.ibuf = (toBlock s.ibuf).toList := by
    rw [toBlock_toList_eq_take hlen.ge, List.take_of_length_le hlen.le]
  fin_cases hi
  · exact ⟨_, exec_encBlock_ready hs hbuf⟩
  · exact ⟨_, exec_decBlock_ready hs hbuf⟩

/-- Without a list of causes there is no fault: `LOAD_KEY` and `FLUSH` complete (R135, R220). -/
theorem exec_not_fault (hi : possibleCauses i = []) (hf : s.fault = false) :
    ∃ t, exec i s = .next t ∧ t.fault = false := by
  obtain ⟨t, h, -⟩ := exec_sameBus i s
  refine ⟨t, h, Bool.eq_false_of_not_eq_true fun ht => ?_⟩
  have hcause := (exec_endsWithin hf h).cause ht
  rw [hi] at hcause
  cases hcause

/-- The completion empties the IV staging, whatever was in it (R233). -/
theorem complete_iv_irrelevant (b : List Byte) (n : Nat) :
    complete r { s with ivbuf := b, ivcnt := n } = complete r s := rfl

theorem wholeBlocks_iv_irrelevant (b : List Byte) (n : Nat) (body : State) :
    wholeBlocks { s with ivbuf := b, ivcnt := n } body = wholeBlocks s body := rfl

theorem decryptedWork_iv_irrelevant (b : List Byte) (n : Nat) :
    decryptedWork .ecbDec { s with ivbuf := b, ivcnt := n } = decryptedWork .ecbDec s :=
  (if_pos rfl).trans (if_pos rfl).symm

/-- ECB passes its prologue without a look at the IV (R182). -/
theorem exec_ecb_iv_irrelevant (hi : i = .ecbEnc ∨ i = .ecbDec) (hctx : s.ctxValid = true) (b : List Byte) (n : Nat) :
    exec i { s with ivbuf := b, ivcnt := n } = exec i s := by
  rcases hi with rfl | rfl
  · rw [exec_ecbEnc_ready (s := { s with ivbuf := b, ivcnt := n }) hctx, exec_ecbEnc_ready hctx, complete_iv_irrelevant]
  · have hiv (u : State) : IvSuffices .ecbDec u := .inr (.inl rfl)
    rw [exec_unpadding_ready (by decide) hctx (hiv s),
      exec_unpadding_ready (s := { s with ivbuf := b, ivcnt := n }) (by decide) hctx (hiv _),
      complete_iv_irrelevant, wholeBlocks_iv_irrelevant, decryptedWork_iv_irrelevant]

/-! ### `FAULT`, `FAULTCAUSE` and `RESULT` after a command -/

theorem outcome_of_raiseFault (h : exec i s = .next t) (hc : exec i s = .next (raiseFault c s)) :
    (t.fault, t.faultCause, t.result) = (true, causeByte c, s.result) := by
  cases hc.symm.trans h
  rfl

theorem outcome_of_complete (hf : s.fault = false) (h : exec i s = .next t) (hr : exec i s = .next (complete r s)) :
    (t.fault, t.faultCause, t.result) = (false, s.faultCause, replyCode r) := by
  cases hr.symm.trans h
  rw [complete_fault, hf, complete_faultCause, complete_result]

/-- Where no check applies the command returns OK. -/
theorem outcome_of_checks_pass (hf : s.fault = false) (h : exec i s = .next t)
    (hctx : i ∈ needsContext → s.ctxValid = true) (hlen : i ∈ blockCommands → s.ibuf.length = 16)
    (hiv : i ∈ chainedCommands → s.ivcnt = 16) (hkey : i = .loadKey → s.keycnt = 16) (hu : i ∉ unpaddingCommands) :
    (t.fault, t.faultCause, t.result) = (false, s.faultCause, 0x00) := by
  rcases command_kinds i with rfl | rfl | hi | hi
  · cases (exec_loadKey_valid (hkey rfl)).symm.trans h
    exact congrArg (·, s.faultCause, 0x00) hf
  · exact outcome_of_complete hf h (exec_flush s)
  · obtain ⟨out, hok⟩ := exec_block_ok hi ⟨hf, hctx (blockCommand_needsContext hi)⟩ (hlen hi)
    exact outcome_of_complete hf h hok
  · obtain ⟨out, hok⟩ := exec_mode_ok hu (hctx (mode_needsContext hi)) (ivSuffices_of_mode hi hiv)
    exact outcome_of_complete hf h hok

/-- The checks (3) to (8) of R243, one case for each. -/
theorem exec_outcome (hf : s.fault = false) (h : exec i s = .next t) :
    (t.fault, t.faultCause, t.result) = commandOutcome i s := by
  unfold commandOutcome
  split_ifs with hno hbad hmiss hmal hpart hsize hpad
  · exact outcome_of_raiseFault h (exec_noContext hno.1 hno.2)
  all_goals have hctx (hi : i ∈ needsContext) : s.ctxValid = true := by simpa [hi] using hno
  · exact outcome_of_raiseFault h (exec_badBlockLength hbad.1 (hctx (blockCommand_needsContext hbad.1)) hbad.2)
  · exact outcome_of_complete hf h (exec_missingIv hmiss.1 (hctx (chained_needsContext hmiss.1)) hmiss.2)
  · have h0 : s.ivcnt ≠ 0 := fun h0 => hmiss ⟨hmal.1, h0⟩
    exact outcome_of_raiseFault h (exec_badIvLength hmal.1 (hctx (chained_needsContext hmal.1)) h0 hmal.2)
  all_goals have hiv (hi : i ∈ chainedCommands) : s.ivcnt = 16 := by simpa [hi] using hmal
  · exact outcome_of_complete hf h (exec_unpadding_partial hpart.1 (hctx (unpadding_needsContext hpart.1))
      (ivSuffices_of_mode (unpadding_mem_modes hpart.1) hiv) hpart.2)
  · obtain ⟨rfl, hcnt⟩ := hsize
    exact outcome_of_complete hf h (exec_loadKey_invalid hcnt)
  all_goals
    have hwhole (hi : i ∈ unpaddingCommands) := exec_unpadding_whole hi (hctx (unpadding_needsContext hi))
      (ivSuffices_of_mode (unpadding_mem_modes hi) hiv) (by simpa [hi] using hpart)
  · have hexec := hwhole hpad.1
    rw [hpad.2] at hexec
    exact outcome_of_complete hf h hexec
  · by_cases hi : i ∈ unpaddingCommands
    · rcases removePadding_cases (decryptedWork i s) with ⟨plain, -, hok⟩ | ⟨-, herr⟩
      · have hexec := hwhole hi
        rw [hok] at hexec
        exact outcome_of_complete hf h hexec
      · exact absurd ⟨hi, herr⟩ hpad
    · exact outcome_of_checks_pass hf h hctx (by simpa using hbad) hiv (by simpa using hsize) hi

/-- `(FAULT, FAULTCAUSE)` after a command, from the context bit and the counts alone (R232): the checks behind these four
end in an error or in OK, and neither is a fault. -/
def faultByCounts (i : Instr) (ctxValid : Bool) (icnt ivcnt : Nat) (cause : Byte) : Bool × Byte :=
  if i ∈ needsContext ∧ ctxValid = false then (true, 0x03)
  else if i ∈ blockCommands ∧ icnt ≠ 16 then (true, 0x02)
  else if i ∈ chainedCommands ∧ ivcnt = 0 then (false, cause)
  else if i ∈ chainedCommands ∧ ivcnt ≠ 16 then (true, 0x04)
  else (false, cause)

theorem commandOutcome_faultByCounts (i : Instr) (s : State) :
    ((commandOutcome i s).1, (commandOutcome i s).2.1) = faultByCounts i s.ctxValid s.ibuf.length s.ivcnt s.faultCause := by
  simp only [commandOutcome, faultByCounts, apply_ite (fun o : Bool × Byte × Byte => (o.1, o.2.1)), ite_self]

theorem exec_faultByCounts (hf : s.fault = false) (h : exec i s = .next t) :
    (t.fault, t.faultCause) = faultByCounts i s.ctxValid s.ibuf.length s.ivcnt s.faultCause := by
  rw [← commandOutcome_faultByCounts, ← exec_outcome hf h]

end Sys2Proof.Machine

namespace Sys2Proof.Proofs

open Sys2Proof Sys2Proof.Machine Sys2Proof.Statements

/-- Settles O11: a command that does not fault is a completion, of `LOAD_KEY` with a new context. -/
theorem completionConsumesStagingAndKeepsTheRest : Obligations.CompletionConsumesStagingAndKeepsTheRest := by
  intro i s t _ h ht
  have herr := exec_obuf_of_error h ht
  rcases exec_next_cases h with ⟨r, rfl⟩ | ⟨hi, -, rfl⟩ | ⟨c, rfl⟩
  · exact ⟨rfl, rfl, rfl, rfl, rfl, rfl, replyCode_le r, herr, rfl, rfl, rfl, rfl, fun _ => ⟨rfl, rfl⟩⟩
  · exact ⟨rfl, rfl, rfl, rfl, rfl, rfl, replyCode_le (.ok []), herr, rfl, rfl, rfl, rfl,
      fun hne => hne.elim (absurd hi) (absurd rfl)⟩
  · cases ht

/-- Settles O15: the context is the first check of the ten; the other two have no cause in their lists. -/
theorem noContextFaults : Obligations.NoContextFaults := by
  refine ⟨fun i s hi _ hctx => ⟨_, exec_noContext hi hctx, raiseFault_faultedWith .noContext s⟩, ?_⟩
  rintro i s (rfl | rfl) hf
  · exact exec_not_fault rfl hf
  · exact exec_not_fault rfl hf

/-- Settles O16: the length is the block commands' second and last check, and cause 2 is in no other command's list. -/
theorem wrongBlockLengthFaults : Obligations.WrongBlockLengthFaults := by
  refine ⟨fun i s hi hs => ⟨fun hlen => ?_, fun hlen => ?_⟩, fun i s t hi hf h ht hcause => hi ?_⟩
  · exact ⟨_, exec_badBlockLength hi hs.2 hlen, raiseFault_faultedWith .badBlockLength s⟩
  · obtain ⟨out, hok⟩ := exec_block_ok hi hs hlen
    exact ⟨_, hok, hs.1⟩
  · exact mem_blockCommands_of_cause (hcause ▸ (exec_endsWithin hf h).cause ht)

/-- Settles O17: the IV count is the chained commands' second check, cause 4 is in no other command's list, and an ECB
command asks for the context only. -/
theorem ivCountDecidesMissingOrMalformed : Obligations.IvCountDecidesMissingOrMalformed := by
  refine ⟨fun i s hi hs => ⟨fun h0 => ?_, fun h0 h16 => ?_⟩, fun i s t hi hf h ht hcause => hi ?_, fun i s b n hi hs => ?_⟩
  · exact exec_missingIv hi hs.2 h0
  · exact ⟨_, exec_badIvLength hi hs.2 h0 h16, raiseFault_faultedWith .badIvLength s⟩
  · exact mem_chainedCommands_of_cause (hcause ▸ (exec_endsWithin hf h).cause ht)
  · exact exec_ecb_iv_irrelevant hi hs.2 b n

/-- Settles O12: the checks (1) and (2) are those of the write, the others those of the command. -/
theorem commandChecksRunInTheirOrder : Obligations.CommandChecksRunInTheirOrder := by
  intro s v rest t hp h
  cases hf : s.fault
  · rw [step_write_live hp hf] at h
    rcases decode_cases v with ⟨i, -, hd⟩ | hd
    · have hexec : exec i (withPending rest s) = .next t := (writeCmd_ok hd).symm.trans h
      rw [writeOutcome, hd, hf]
      exact exec_outcome (s := withPending rest s) hf hexec
    · cases (writeCmd_illegal hd).symm.trans h
      rw [writeOutcome, hd, hf]
      rfl
  · cases (step_write_faulted hp hf).symm.trans h
    rw [writeOutcome, if_pos hf]
    exact congrArg (·, s.faultCause, s.result) hf

/-- Settles O13: `FAULT` and `FAULTCAUSE` are a function of the context bit and the counts. -/
theorem contentNeverDecidesAFault : Obligations.ContentNeverDecidesAFault := by
  intro i s s' t t' hf hf' hcause hctx _ hiv hlen h h'
  apply Prod.mk.inj
  rw [exec_faultByCounts hf h, exec_faultByCounts hf' h', hcause, hctx, hiv, hlen]

end Sys2Proof.Proofs

/-! SUPPORT. What the host reads right after reset (R261): every byte a read can return is built from elements that a
reset has set to 0, none of them `RK`. -/

namespace Sys2Proof.Machine

variable {s : State}

/-- A read gives the host its byte after those of the past reads (R60; log 2). -/
@[simp] theorem readReg_reads (r : HostReg) (s : State) : (readReg r s).reads = s.reads ++ [readByte r s] :=
  congrArg (· ++ [readByte r s]) (readEffect_sameBus r s).reads

/-- `STATUS` of a live engine with no context and no output left is 0x00 (R29). -/
theorem statusByte_eq_zero (hf : s.fault = false) (hctx : s.ctxValid = false) (hout : s.ocnt ≤ s.ord) :
    statusByte s = 0x00 := by
  have hav : oavail s = false := decide_eq_false hout.not_gt
  simp [statusByte, hf, hctx, hav]

/-- Every register reads 0x00 in a live engine with no context, no output left, and `RESULT` and `FAULTCAUSE` at 0
(R261). -/
theorem readByte_eq_zero (hf : s.fault = false) (hctx : s.ctxValid = false) (hout : s.ocnt ≤ s.ord)
    (hres : s.result = 0x00) (hcause : s.faultCause = 0x00) (r : HostReg) : readByte r s = 0x00 := by
  cases r
  case status => exact statusByte_eq_zero hf hctx hout
  case result => exact hres
  case faultCause => exact hcause
  case dout => exact (if_neg (by simp [hf])).trans (List.getD_eq_default _ _ hout)
  all_goals rfl

end Sys2Proof.Machine

namespace Sys2Proof.Proofs

open Sys2Proof Sys2Proof.Machine

/-- Settles O24: the step is `resetEvent`, which sets every element of R260's block whatever it was. -/
theorem resetEventSetsTheResetValues : Obligations.ResetEventSetsTheResetValues := by
  intro s rest hp
  exact ⟨_, step_reset hp, rfl, rfl, rfl, rfl, rfl, rfl, rfl, rfl, rfl, rfl, rfl, rfl⟩

/-- Settles O25: the reset values are those at which every register reads 0x00, and `RK` is not among them. -/
theorem resetReadsAreZero : Obligations.ResetReadsAreZero := by
  intro off rest k
  have hbyte : readByte (regOf off) { State.reset with rk := k, pending := rest } = 0x00 :=
    readByte_eq_zero rfl rfl le_rfl rfl rfl (regOf off)
  exact ⟨_, step_read rfl, (readReg_reads _ _).trans (congrArg ([·]) hbyte)⟩

end Sys2Proof.Proofs
